-- ==== Sys2Proof/Word.lean ====
section
/-! DEFINITION. The word types of the controller: every payload element, opcode and buffer offset is one byte (spec/00_scope.md R8). -/

namespace Sys2Proof

/-- A byte: 8 bits (00_scope.md R10). -/
abbrev Byte := BitVec 8

end Sys2Proof
end

