-- ==== Sys2Proof/Config.lean ====
section
/-! DEFINITION. The parameters the model takes as arguments (spec/00_scope.md R9), the values of every input the radio
side drives (10_state.md R31), and the free values: constants with no body, for what the spec leaves OPEN. -/

namespace Sys2Proof

/-- What the environment drives at one moment: every input signal of 10_state.md R31. -/
structure Inputs where
  /-- TXE, link transmit-ready. -/
  txe : Bool
  /-- RXNE, link receive-ready. -/
  rxne : Bool
  /-- RXDR, link receive data. -/
  rxdr : Byte
  /-- BUSY, radio busy. -/
  busy : Bool
  /-- BUSYMS, busy-signal-valid mask. -/
  busyms : Bool
  /-- RSTST, 1 = radio under reset. -/
  rstst : Bool
  /-- EVT_ACK, the event consumer finished the current reaction. -/
  evtAck : Bool
  deriving DecidableEq, Repr, Inhabited

/-- The eleven interrupt sources, in the order of 30_encoding.md R83. -/
inductive IrqSource where
  | txDone | rxDone | preambleDetected | syncWordValid | headerValid | headerError | crcError
  | cadDone | cadDetected | rxTxTimeout | freqHop
  deriving DecidableEq, Repr

/-- IRQ_BIT: the status-word bit of each source, an index 0..15 (00_scope.md R9). -/
structure IrqBits where
  txDone : BitVec 4
  rxDone : BitVec 4
  preambleDetected : BitVec 4
  syncWordValid : BitVec 4
  headerValid : BitVec 4
  headerError : BitVec 4
  crcError : BitVec 4
  cadDone : BitVec 4
  cadDetected : BitVec 4
  rxTxTimeout : BitVec 4
  freqHop : BitVec 4
  deriving DecidableEq, Repr

/-- INITIAL_LIFECYCLE (00_scope.md R9). -/
inductive InitialLifecycle where
  | uninitializedAfterReset | uninitializedAfterRFReady
  deriving DecidableEq, Repr

/-- ERR_POLICY (00_scope.md R9): does an admitted transaction clear errorCode. -/
inductive ErrPolicy where
  | sticky | perOperation
  deriving DecidableEq, Repr, Inhabited

/-- INIT_FAIL_STATE (00_scope.md R9): the lifecycle state after an INIT whose reset wait timed out. -/
inductive InitFailState where
  | prev | ready
  deriving DecidableEq, Repr, Inhabited

/-- The parameters of 00_scope.md R9, one field each. -/
structure Params where
  opcWriteRegister : Byte
  opcReadRegister : Byte
  opcWriteBuffer : Byte
  opcReadBuffer : Byte
  opcGetIrqStatus : Byte
  opcClrIrqStatus : Byte
  opcSetSleep : Byte
  opcSetRxDutyCycle : Byte
  irq : IrqBits
  busBudget : Nat
  busyBudget : Nat
  resetBudget : Nat
  wakeHold : Nat
  rxDummy : Byte
  rdDummy : Byte
  prescalerCodes : List (BitVec 3)
  initialLifecycle : InitialLifecycle
  errPolicy : ErrPolicy
  initFailState : InitFailState
  deriving DecidableEq, Repr

/-- The eleven bit positions, in the order of 30_encoding.md R83. -/
def IrqBits.positions (b : IrqBits) : List (BitVec 4) :=
  [b.txDone, b.rxDone, b.preambleDetected, b.syncWordValid, b.headerValid, b.headerError, b.crcError,
   b.cadDone, b.cadDetected, b.rxTxTimeout, b.freqHop]

/-- What the model may assume of the parameters (end of 00_scope.md section 4): distinct interrupt bits, and neither of the
dispatcher's opcodes is OPC_SET_SLEEP. No definition of the model uses it; statements that need it name it. -/
abbrev Params.Lawful (p : Params) : Prop :=
  p.irq.positions.Nodup ∧ p.opcClrIrqStatus ≠ p.opcSetSleep ∧ p.opcGetIrqStatus ≠ p.opcSetSleep

/-- The free value of every input: the inputs that stand at the n-th read. Every value read is a draw (10_state.md R31), so
it has no body (log entry 2). -/
opaque Config.draw : Nat → Inputs

/-- BUS_BUDGET, OPEN (92 D13; log entry 3). -/
opaque Config.busBudget : Nat

/-- BUSY_BUDGET, OPEN (92 D13; log entry 3). -/
opaque Config.busyBudget : Nat

/-- RESET_BUDGET, OPEN (92 D13; log entry 3). -/
opaque Config.resetBudget : Nat

/-- WAKE_HOLD, OPEN, timing only (92 D14; log entry 3). -/
opaque Config.wakeHold : Nat

/-- ERR_POLICY, OPEN (92 D7; log entry 3). -/
opaque Config.errPolicy : ErrPolicy

/-- INIT_FAIL_STATE, OPEN (92 D19; log entry 3). -/
opaque Config.initFailState : InitFailState

/-- The default bit positions of 30_encoding.md R84 (PRESUMED by the spec itself: "from general knowledge"; log entry 3). -/
def Config.irqBits : IrqBits where
  txDone := 0
  rxDone := 1
  preambleDetected := 2
  syncWordValid := 3
  headerValid := 4
  headerError := 5
  crcError := 6
  cadDone := 7
  cadDetected := 8
  rxTxTimeout := 9
  freqHop := 14

/-- The default PRESCALER_CODES {0..7} of 00_scope.md R9 (PRESUMED by the spec itself; log entry 3). -/
def Config.prescalerCodes : List (BitVec 3) := [0, 1, 2, 3, 4, 5, 6, 7]

/-- The parameters at creation: the defaults of 00_scope.md R9 where its table gives one, the opaque constants above where
it says OPEN, and the lifecycle of log entry 4 (DESIGN CHOICE). Every definition of the model reads the parameters from the
state, so a statement over all states covers every value of each. -/
def Config.params : Params where
  opcWriteRegister := 0x0D
  opcReadRegister := 0x1D
  opcWriteBuffer := 0x0E
  opcReadBuffer := 0x1E
  opcGetIrqStatus := 0x12
  opcClrIrqStatus := 0x02
  opcSetSleep := 0x84
  opcSetRxDutyCycle := 0x94
  irq := Config.irqBits
  busBudget := Config.busBudget
  busyBudget := Config.busyBudget
  resetBudget := Config.resetBudget
  wakeHold := Config.wakeHold
  rxDummy := 0xFF
  rdDummy := 0x00
  prescalerCodes := Config.prescalerCodes
  initialLifecycle := .uninitializedAfterReset
  errPolicy := Config.errPolicy
  initFailState := Config.initFailState

end Sys2Proof
end

