-- ==== Sys2Proof/Syntax.lean ====
section
/-! DEFINITION. The requests of the controller, its "instructions": one constructor per row of
spec/opcode_table.json (30_encoding.md R72), and the reasons for which a descriptor is refused (R76). -/

namespace Sys2Proof

/-- The operation selectors of 30_encoding.md R72, OPSEL 0x0 to 0xC in the table's order. -/
inductive OpSel where
  | wrregs | rdregs | setcmd | getcmd | wrbuf | rdbuf | wrreg | rdreg
  | init | deinit | getstate | geterror | dispatch
  deriving DecidableEq, Repr, Inhabited

/-- A request with its operands (30_encoding.md R72, R73). A write-like request carries its payload; its CNT is the
payload's length (R74). -/
inductive Instr where
  /-- WriteRegisters(address, bytes), 41_transactions.md R124. -/
  | wrregs (addr : BitVec 16) (payload : List Byte)
  /-- ReadRegisters(address, count), R125. -/
  | rdregs (addr : BitVec 16) (count : BitVec 16)
  /-- ExecSetCmd(opcode, payload), R130. -/
  | setcmd (opcode : Byte) (payload : List Byte)
  /-- ExecGetCmd(opcode, count), R132. -/
  | getcmd (opcode : Byte) (count : BitVec 16)
  /-- WriteBuffer(offset, bytes), R134. -/
  | wrbuf (offset : Byte) (payload : List Byte)
  /-- ReadBuffer(offset, count), R135. -/
  | rdbuf (offset : Byte) (count : BitVec 16)
  /-- Single-byte register write, R136. -/
  | wrreg (addr : BitVec 16) (data : Byte)
  /-- Single-byte register read, R137. -/
  | rdreg (addr : BitVec 16)
  /-- Init(baudPrescaler), 43_lifecycle.md R181. -/
  | init (code : BitVec 3)
  /-- DeInit(), R184. -/
  | deinit
  /-- GetState(), R186. -/
  | getstate
  /-- GetError(), R187. -/
  | geterror
  /-- The interrupt entry point, 42_dispatcher.md R161. -/
  | dispatch
  deriving DecidableEq, Repr

/-- Why a descriptor spells no request: cases (a) to (e) of 30_encoding.md R76, in the order in which they are reported. -/
inductive RefuseReason where
  /-- (a) OPSEL is 0xD, 0xE or 0xF. -/
  | opsel
  /-- (b) RSV0 is not 0. -/
  | rsv0
  /-- (c) RSV1 is not 0. -/
  | rsv1
  /-- (d) INIT with a byte that is no code of PRESCALER_CODES. -/
  | prescaler
  /-- (e) the payload's length is not what the descriptor asks for. -/
  | payload
  deriving DecidableEq, Repr

end Sys2Proof
end

