-- ==== Sys2Proof/WellFormed.lean ====
section
/-! DEFINITION. Which requests a descriptor can spell: a payload must fit the 16-bit CNT field (30_encoding.md R71, R74) and
INIT's code must be one of PRESCALER_CODES (R76 (d)). -/

namespace Sys2Proof

/-- A payload whose length the 16-bit CNT field can hold (30_encoding.md R71). -/
def payloadFits (p : List Byte) : Bool := p.length < 2 ^ 16

/-- The request can be spelled by a descriptor and a payload, under the given PRESCALER_CODES. -/
def Instr.wellFormed (codes : List (BitVec 3)) : Instr → Bool
  | .wrregs _ p => payloadFits p
  | .rdregs _ _ => true
  | .setcmd _ p => payloadFits p
  | .getcmd _ _ => true
  | .wrbuf _ p => payloadFits p
  | .rdbuf _ _ => true
  | .wrreg _ _ => true
  | .rdreg _ => true
  | .init c => codes.contains c
  | .deinit => true
  | .getstate => true
  | .geterror => true
  | .dispatch => true

end Sys2Proof
end

