-- ==== Sys2Proof/Decode.lean ====
section
/-! DEFINITION. The request descriptor (spec/30_encoding.md R71 to R77): its fields, the decoder, total on every descriptor
and payload and refusing by name, and the encoder of the same table. -/

namespace Sys2Proof

/-! ## Descriptor fields (R71) -/

/-- OPSEL, bits 3:0. -/
def Desc.opsel (d : BitVec 64) : BitVec 4 := d.extractLsb' 0 4

/-- RSV0, bits 7:4. -/
def Desc.rsv0 (d : BitVec 64) : BitVec 4 := d.extractLsb' 4 4

/-- B8, bits 15:8. -/
def Desc.b8 (d : BitVec 64) : Byte := d.extractLsb' 8 8

/-- A16, bits 31:16. -/
def Desc.a16 (d : BitVec 64) : BitVec 16 := d.extractLsb' 16 16

/-- CNT, bits 47:32. -/
def Desc.cnt (d : BitVec 64) : BitVec 16 := d.extractLsb' 32 16

/-- RSV1, bits 63:48. -/
def Desc.rsv1 (d : BitVec 64) : BitVec 16 := d.extractLsb' 48 16

/-! ## OPSEL (R72) -/

/-- The 4-bit code of an operation (R72). -/
def OpSel.code : OpSel → BitVec 4
  | .wrregs => 0x0
  | .rdregs => 0x1
  | .setcmd => 0x2
  | .getcmd => 0x3
  | .wrbuf => 0x4
  | .rdbuf => 0x5
  | .wrreg => 0x6
  | .rdreg => 0x7
  | .init => 0x8
  | .deinit => 0x9
  | .getstate => 0xA
  | .geterror => 0xB
  | .dispatch => 0xC

/-- The operation a 4-bit code selects; none for the reserved codes 0xD to 0xF (R72, R76 (a)). -/
def OpSel.ofCode (c : BitVec 4) : Option OpSel :=
  match c.toNat with
  | 0 => some .wrregs
  | 1 => some .rdregs
  | 2 => some .setcmd
  | 3 => some .getcmd
  | 4 => some .wrbuf
  | 5 => some .rdbuf
  | 6 => some .wrreg
  | 7 => some .rdreg
  | 8 => some .init
  | 9 => some .deinit
  | 10 => some .getstate
  | 11 => some .geterror
  | 12 => some .dispatch
  | _ => none

/-- The three operations that carry a payload (R74). -/
def OpSel.carriesPayload : OpSel → Bool
  | .wrregs => true
  | .setcmd => true
  | .wrbuf => true
  | .rdregs => false
  | .getcmd => false
  | .rdbuf => false
  | .wrreg => false
  | .rdreg => false
  | .init => false
  | .deinit => false
  | .getstate => false
  | .geterror => false
  | .dispatch => false

/-! ## Decoding (R73, R76, R77) -/

/-- The payload length the descriptor asks for: CNT for a write-like operation, none for any other (R74). -/
def payloadLength (o : OpSel) (d : BitVec 64) : Nat :=
  if o.carriesPayload then (Desc.cnt d).toNat else 0

/-- The byte is a code of PRESCALER_CODES: a 3-bit code zero-extended to 8 bits (R76 (d)). -/
def prescalerLegal (codes : List (BitVec 3)) (b : Byte) : Bool :=
  b.extractLsb' 3 5 == 0#5 && codes.contains (b.extractLsb' 0 3)

/-- Operand assembly (R73): no operand is extended, scaled or shifted. -/
def assembleInstr (o : OpSel) (d : BitVec 64) (payload : List Byte) : Instr :=
  match o with
  | .wrregs => .wrregs (Desc.a16 d) payload
  | .rdregs => .rdregs (Desc.a16 d) (Desc.cnt d)
  | .setcmd => .setcmd (Desc.b8 d) payload
  | .getcmd => .getcmd (Desc.b8 d) (Desc.cnt d)
  | .wrbuf => .wrbuf (Desc.b8 d) payload
  | .rdbuf => .rdbuf (Desc.b8 d) (Desc.cnt d)
  | .wrreg => .wrreg (Desc.a16 d) (Desc.b8 d)
  | .rdreg => .rdreg (Desc.a16 d)
  | .init => .init ((Desc.b8 d).extractLsb' 0 3)
  | .deinit => .deinit
  | .getstate => .getstate
  | .geterror => .geterror
  | .dispatch => .dispatch

/-- The decoder: every descriptor and payload is one request or is refused with the first reason that applies in the order
(a) to (e) (R76, R77). `codes` is the parameter PRESCALER_CODES. -/
def decode (codes : List (BitVec 3)) (d : BitVec 64) (payload : List Byte) : Except RefuseReason Instr :=
  match OpSel.ofCode (Desc.opsel d) with
  | none => .error .opsel
  | some o =>
    if Desc.rsv0 d ≠ 0 then .error .rsv0
    else if Desc.rsv1 d ≠ 0 then .error .rsv1
    else if o = .init ∧ prescalerLegal codes (Desc.b8 d) = false then .error .prescaler
    else if payload.length ≠ payloadLength o d then .error .payload
    else .ok (assembleInstr o d payload)

/-! ## Encoding (R71, R72, R90) -/

/-- A descriptor from its fields; the reserved fields are 0 (R71). -/
def packDesc (o : OpSel) (b8 : Byte) (a16 : BitVec 16) (cnt : BitVec 16) : BitVec 64 :=
  0#16 ++ cnt ++ a16 ++ b8 ++ 0#4 ++ o.code

/-- The descriptor and payload that spell a request; a field the operation does not use is written as 0 (R90). -/
def encode : Instr → BitVec 64 × List Byte
  | .wrregs a p => (packDesc .wrregs 0 a (BitVec.ofNat 16 p.length), p)
  | .rdregs a n => (packDesc .rdregs 0 a n, [])
  | .setcmd c p => (packDesc .setcmd c 0 (BitVec.ofNat 16 p.length), p)
  | .getcmd c n => (packDesc .getcmd c 0 n, [])
  | .wrbuf f p => (packDesc .wrbuf f 0 (BitVec.ofNat 16 p.length), p)
  | .rdbuf f n => (packDesc .rdbuf f 0 n, [])
  | .wrreg a b => (packDesc .wrreg b a 0, [])
  | .rdreg a => (packDesc .rdreg 0 a 0, [])
  | .init c => (packDesc .init (BitVec.setWidth 8 c) 0 0, [])
  | .deinit => (packDesc .deinit 0 0 0, [])
  | .getstate => (packDesc .getstate 0 0 0, [])
  | .geterror => (packDesc .geterror 0 0 0, [])
  | .dispatch => (packDesc .dispatch 0 0 0, [])

/-! ## The host's word form -/

/-- The descriptor whose low `nbits` bits are those of `w`, every higher bit 0. -/
def tableDesc (nbits w : Nat) : BitVec 64 := BitVec.ofNat 64 (w % 2 ^ nbits)

/-- The payload that stands behind a table word: as many zero bytes as the descriptor asks for (operand words of zeros). -/
def zeroPayload (d : BitVec 64) : List Byte :=
  match OpSel.ofCode (Desc.opsel d) with
  | none => []
  | some o => List.replicate (payloadLength o d) 0

/-- The request the decoder reads from a table word, under the default PRESCALER_CODES (log entry 25). -/
def decodeTableWord (nbits w : Nat) : Option Instr :=
  match decode Config.prescalerCodes (tableDesc nbits w) (zeroPayload (tableDesc nbits w)) with
  | .ok i => some i
  | .error _ => none

end Sys2Proof
end

