-- ==== Sys2Proof/Machine/State.lean ====
section
/-! DEFINITION. The state of the controller as spec/10_state.md gives it (R21 to R36), as plain data, the events of its
observable record (70_reset_and_hazards.md R250), the reasons a step can stop, and the state at creation (R40). -/

namespace Sys2Proof.Machine

/-! ## Values of the Handle and of the ports -/

/-- H.state (10_state.md R26). -/
inductive Lifecycle where
  | uninitializedAfterReset | ready | busy | uninitializedAfterRFReady
  deriving DecidableEq, Repr

/-- The kinds of fault RecordFault records (60_exceptions.md R201). -/
inductive FaultKind where
  | timeout | rfBusyTimeout
  deriving DecidableEq, Repr

/-- The result codes of a Result response (30_encoding.md R88). -/
inductive ResultCode where
  | ok | error | busy
  deriving DecidableEq, Repr

/-- A response (30_encoding.md R75). -/
inductive Response where
  /-- `Result(r, data)`: transactions, INIT and DEINIT. -/
  | result (r : ResultCode) (data : List Byte)
  /-- `Value(v)`: GETSTATE and GETERROR. -/
  | value (v : BitVec 32)
  /-- `Done`: DISPATCH. -/
  | done
  deriving DecidableEq, Repr

/-- One event of the observable record (70_reset_and_hazards.md R250). -/
inductive Event where
  /-- `SetSel(v)`. -/
  | sel (v : Bool)
  /-- `SetRst(v)`. -/
  | rst (v : Bool)
  /-- `Hold(n)`. -/
  | hold (n : Nat)
  /-- `LinkWrite(b)`. -/
  | linkWrite (b : Byte)
  /-- `LinkRead()` with the byte drawn. -/
  | linkRead (b : Byte)
  /-- `Sample` with the inputs drawn. -/
  | sample (v : Inputs)
  /-- A response, with the tag of the requester it answers. -/
  | respond (who : Nat) (r : Response)
  /-- `Emit(e)`. -/
  | emit (code : BitVec 4)
  /-- The acknowledgement that ends an `AwaitAck()`. -/
  | ack
  deriving DecidableEq, Repr

/-- A request presented on the request port (30_encoding.md R70): it is due after `delay` more controller steps (log entry
6), comes from the requester tagged `who` (log entry 14), and carries a descriptor and a payload. -/
structure Request where
  delay : Nat
  who : Nat
  desc : BitVec 64
  payload : List Byte
  deriving DecidableEq, Repr

/-- The three status bytes a GET_IRQSTATUS returns (H.dStat, 10_state.md R34). -/
structure StatusBytes where
  s0 : Byte
  s1 : Byte
  s2 : Byte
  deriving DecidableEq, Repr

/-! ## The sequencer (R23) -/

/-- Where the sequencer goes on after the response of an operation a requester presented: to Idle, or back to the place at
which a DISPATCH in progress stood when the operation was admitted (42_dispatcher.md R167; log entry 9). -/
inductive Resume where
  | idle
  /-- The dispatcher is about to test entry H.dCursor. -/
  | test
  /-- The dispatcher waits in AwaitAck. -/
  | ack
  /-- The dispatcher is about to respond Done. -/
  | done
  deriving DecidableEq, Repr

/-- Whose transaction is in progress: a requester's, or one of DISPATCH's two inner ones (42_dispatcher.md R161). -/
inductive Owner where
  | requester (back : Resume)
  | dispatchGet
  | dispatchClr
  deriving DecidableEq, Repr

/-- The micro-steps of a transaction's pseudocode that are no waits (41_transactions.md R122; `j` is a position of the
frame, 30_encoding.md R78). -/
inductive TxnPoint where
  /-- WakeToggle: SetSel(1). -/
  | wakeSel
  /-- WakeToggle: Hold(WAKE_HOLD). -/
  | wakeHold
  /-- WakeToggle: SetSel(0). -/
  | wakeDesel
  /-- SETCMD's deepSleep update and SetSel(1). -/
  | frameSel
  /-- LinkWrite of position j. -/
  | linkWrite (j : Nat)
  /-- LinkRead of position j. -/
  | linkRead (j : Nat)
  /-- SetSel(0) after the frame. -/
  | frameDesel
  /-- Release (R123). -/
  | release
  deriving DecidableEq, Repr

/-- The bounded waits of a transaction. -/
inductive TxnWait where
  /-- The gate of DeviceReady. -/
  | startGate
  /-- The TXE wait of position j. -/
  | txe (j : Nat)
  /-- The RXNE wait of position j. -/
  | rxne (j : Nat)
  /-- The gate after the frame. -/
  | endGate
  deriving DecidableEq, Repr

/-- The micro-steps of INIT after its acceptance that are no waits (43_lifecycle.md R181). -/
inductive InitPoint where
  | setRst | setSel | respond
  deriving DecidableEq, Repr

/-- INIT's operand and local variable while it is in progress: the prescaler code `c` and `prev` (R181; log entry 17). -/
structure InitJob where
  code : BitVec 3
  prev : Lifecycle
  back : Resume
  deriving DecidableEq, Repr

/-- The micro-steps of DEINIT after its acceptance that are no waits (43_lifecycle.md R184). -/
inductive DeinitPoint where
  | setRst | setSel | respond
  deriving DecidableEq, Repr

/-- The dispatcher's own micro-steps that are no waits (42_dispatcher.md R161, R166). -/
inductive DispPoint where
  /-- Test entry H.dCursor of the order, and Emit if it is set. -/
  | test
  /-- Respond(Done). -/
  | done
  deriving DecidableEq, Repr

/-- The `k` of `Op(o, k)`: the operation and its next micro-step (10_state.md R23). -/
inductive Point where
  | txn (o : Owner) (p : TxnPoint)
  | init (j : InitJob) (p : InitPoint)
  | deinit (back : Resume) (p : DeinitPoint)
  | disp (p : DispPoint)
  deriving DecidableEq, Repr

/-- The `k` of `Wait(o, k)`: the operation and the wait it is blocked in (10_state.md R23). -/
inductive WaitPoint where
  | txn (o : Owner) (w : TxnWait)
  /-- INIT's reset-confirmation wait. -/
  | initReset (j : InitJob)
  /-- DEINIT's reset-confirmation wait. -/
  | deinitReset (back : Resume)
  /-- The dispatcher's AwaitAck. -/
  | ack
  deriving DecidableEq, Repr

/-- H.seq: Idle, Op(o, k) or Wait(o, k) (10_state.md R23). -/
inductive Seq where
  | idle
  | op (k : Point)
  | wait (k : WaitPoint)
  deriving DecidableEq, Repr

/-! ## The state -/

/-- The controller's architectural state (10_state.md R21), the spec's model mark (R36), and the model's own fields: the
parameters, the request port, the tags, the inputs to come and the record of the run (log entries 1, 2, 6, 14, 15). -/
structure State where
  /-- H.state, H.errorCode, H.deepSleep, H.lockHeld, H.baudPrescaler, H.busEnabled (R22). -/
  state : Lifecycle
  errorCode : BitVec 32
  deepSleep : Bool
  lockHeld : Bool
  baudPrescaler : BitVec 3
  busEnabled : Bool
  /-- The outputs H.SEL, H.RST, TXDR, H.PRESC, EVT (R30) and EVT's valid indication (42_dispatcher.md R166). -/
  sel : Bool
  rst : Bool
  txdr : Byte
  presc : BitVec 3
  evt : BitVec 4
  evtValid : Bool
  /-- H.seq (R23). -/
  seq : Seq
  /-- The transient registers (R33). -/
  op : OpSel
  cmd : Byte
  addr : BitVec 16
  off : Byte
  cnt : BitVec 16
  txBuf : List Byte
  rxBuf : List Byte
  callFailed : Bool
  /-- The dispatcher registers (R34). -/
  dActive : Bool
  dStat : StatusBytes
  dWord : BitVec 16
  dCursor : BitVec 4
  /-- H.count (R35). -/
  count : Nat
  /-- M.refused (R36). -/
  refused : Bool
  /-- The parameters (00_scope.md R9). -/
  par : Params
  /-- The requests presented and not yet served, the next one first. -/
  port : List Request
  /-- The requester being served, the one whose operation is in progress, the one whose DISPATCH is in progress. -/
  asking : Nat
  client : Nat
  dClient : Nat
  /-- The scripted inputs to come; after them the inputs are `Config.draw drawn`. -/
  env : List Inputs
  drawn : Nat
  /-- The observable record, newest event first. -/
  trace : List Event
  deriving DecidableEq, Repr

/-! ## How a step can stop -/

/-- The stops of the model: a host action with NO MOVE (70_reset_and_hazards.md R240, 00_scope.md R13). None is a fault of
the controller (60_exceptions.md R205). Each cuts the run off where the spec gives it no transition; a claim about runs
therefore says nothing of a host that breaks the duty (log entry 11). -/
inductive Fault where
  /-- Raised by DISPATCH presented when not Ready, locked or already active (R240 (a)). Unsafe in the spec's own words
  ("errs toward proving", 93 section 2): runs of a host that breaks the duty are left out. -/
  | dispatchDuty
  /-- Raised by INIT presented when not quiet or not uninitialized (R240 (b)). Unsafe as above. -/
  | initDuty
  /-- Raised by DEINIT presented when not quiet (R240 (b)). Unsafe as above. -/
  | deinitDuty
  deriving DecidableEq, Repr

/-- Reasons for which the model gives a request no meaning. -/
inductive Refusal where
  /-- Raised by an arm of exec whose request has no meaning in the model; safe. No arm raises it. -/
  | notModelled (mnemonic : String)
  deriving DecidableEq, Repr

/-! ## Creation (R40) -/

/-- INITIAL_LIFECYCLE as a value of H.state. -/
def initialState : InitialLifecycle → Lifecycle
  | .uninitializedAfterReset => .uninitializedAfterReset
  | .uninitializedAfterRFReady => .uninitializedAfterRFReady

/-- The Handle at its creation under the given parameters (10_state.md R40). Where R40 says that a register holds no value
or is unspecified the field is 0 or empty (log entry 5, DESIGN CHOICE). -/
def State.create (p : Params) : State where
  state := initialState p.initialLifecycle
  errorCode := 0
  deepSleep := false
  lockHeld := false
  baudPrescaler := 0
  busEnabled := false
  sel := false
  rst := decide (p.initialLifecycle = .uninitializedAfterReset)
  txdr := 0
  presc := 0
  evt := 0
  evtValid := false
  seq := .idle
  op := .wrregs
  cmd := 0
  addr := 0
  off := 0
  cnt := 0
  txBuf := []
  rxBuf := []
  callFailed := false
  dActive := false
  dStat := { s0 := 0, s1 := 0, s2 := 0 }
  dWord := 0
  dCursor := 0
  count := 0
  refused := false
  par := p
  port := []
  asking := 0
  client := 0
  dClient := 0
  env := []
  drawn := 0
  trace := []

/-- The machine right after reset: creation (70_reset_and_hazards.md R230) under `Config.params`. -/
def State.reset : State := State.create Config.params

end Sys2Proof.Machine
end

