-- ==== Sys2Proof/Machine/Flags.lean ====
section
/-! DEFINITION. The values that act as flags (spec/10_state.md R32): codes of the Handle's fields, the result a call is
classified as, the predicates of the bounded waits, what SETCMD's opcode decides, and the interrupt-status tests. -/

namespace Sys2Proof.Machine

/-! ## Codes -/

/-- The 2-bit code of H.state (10_state.md R26). -/
def Lifecycle.code : Lifecycle → BitVec 2
  | .uninitializedAfterReset => 0
  | .ready => 1
  | .busy => 2
  | .uninitializedAfterRFReady => 3

/-- The errorCode of a fault kind (10_state.md R27, 60_exceptions.md R201). -/
def FaultKind.code : FaultKind → BitVec 32
  | .timeout => 0x1
  | .rfBusyTimeout => 0x2

/-- The number of a result code (30_encoding.md R88). -/
def ResultCode.code : ResultCode → BitVec 2
  | .ok => 0
  | .error => 1
  | .busy => 2

/-! ## Classification (41_transactions.md R123) -/

/-- Error if any fault was recorded since the operation's admission, else Ok. -/
def classify (callFailed : Bool) : ResultCode := if callFailed then .error else .ok

/-! ## Predicates of the bounded waits -/

/-- The link can take a byte (40_bus_primitive.md R102). -/
def txReady (v : Inputs) : Bool := v.txe

/-- The link has a received byte (R102). -/
def rxReady (v : Inputs) : Bool := v.rxne

/-- The busy/ready gate is open: not (BUSY = 1 and BUSYMS = 1), both of one sample (R106). -/
def gateOpen (v : Inputs) : Bool := !(v.busy && v.busyms)

/-- The radio left reset: RSTST = 0 (43_lifecycle.md R181). -/
def outOfReset (v : Inputs) : Bool := !v.rstst

/-- The radio confirms reset: RSTST = 1 (R184). -/
def underReset (v : Inputs) : Bool := v.rstst

/-! ## SETCMD's opcode (41_transactions.md R130) -/

/-- The deepSleep that a SETCMD of opcode `c` writes. -/
def sleepsAfter (p : Params) (c : Byte) : Bool := c == p.opcSetSleep || c == p.opcSetRxDutyCycle

/-- The final gate is skipped: exactly SETCMD with OPC_SET_SLEEP (R122). -/
def skipsFinalGate (p : Params) (o : OpSel) (c : Byte) : Bool := o == .setcmd && c == p.opcSetSleep

/-! ## Interrupt status (30_encoding.md R84, R85; 42_dispatcher.md R165, R166) -/

/-- IRQ_BIT of a source. -/
def irqBit (b : IrqBits) : IrqSource → BitVec 4
  | .txDone => b.txDone
  | .rxDone => b.rxDone
  | .preambleDetected => b.preambleDetected
  | .syncWordValid => b.syncWordValid
  | .headerValid => b.headerValid
  | .headerError => b.headerError
  | .crcError => b.crcError
  | .cadDone => b.cadDone
  | .cadDetected => b.cadDetected
  | .rxTxTimeout => b.rxTxTimeout
  | .freqHop => b.freqHop

/-- mask(e) = 1 << IRQ_BIT(e) (R84). -/
def irqMask (b : IrqBits) (e : IrqSource) : BitVec 16 := 1#16 <<< (irqBit b e).toNat

/-- The source's bit is set in the status word: word & mask(e) != 0. -/
def irqSet (b : IrqBits) (w : BitVec 16) (e : IrqSource) : Bool := (w &&& irqMask b e) != 0#16

/-- ORDER[0..9] (42_dispatcher.md R165). -/
def dispatchOrder : List IrqSource :=
  [.txDone, .rxDone, .preambleDetected, .syncWordValid, .headerValid, .headerError, .crcError, .cadDone,
   .rxTxTimeout, .freqHop]

/-- The event a set entry of the order presents (30_encoding.md R85); CadDone looks at CadDetected (R166). CadDetected is no
entry of the order. -/
def eventCode (b : IrqBits) (w : BitVec 16) : IrqSource → BitVec 4
  | .txDone => 0
  | .rxDone => 1
  | .preambleDetected => 2
  | .syncWordValid => 3
  | .headerValid => 4
  | .headerError => 5
  | .crcError => 6
  | .cadDone => if irqSet b w .cadDetected then 7 else 8
  | .cadDetected => 7
  | .rxTxTimeout => 9
  | .freqHop => 10

/-- What ReactTo(ORDER[j]) presents for the status word: an event code, or nothing (R166). -/
def reaction (b : IrqBits) (w : BitVec 16) (j : Nat) : Option (BitVec 4) :=
  match dispatchOrder[j]? with
  | none => none
  | some e => if irqSet b w e then some (eventCode b w e) else none

end Sys2Proof.Machine
end

