-- ==== Sys2Proof/Machine/Operands.lean ====
section
/-! DEFINITION. Operands and frames: loading a transaction's transient registers (spec/30_encoding.md R73), the byte order of
addresses and status words (20_memory.md R52), and the frame formats with the byte sent at each position (30_encoding.md
R78). -/

namespace Sys2Proof.Machine

/-! ## Byte order (20_memory.md R52) -/

/-- Bits 15:8 of an address: the byte that goes on the wire first. -/
def hiByte (a : BitVec 16) : Byte := a.extractLsb' 8 8

/-- Bits 7:0 of an address. -/
def loByte (a : BitVec 16) : Byte := a.extractLsb' 0 8

/-- The big-endian status word of two bytes (42_dispatcher.md R162). -/
def statusWord (b1 b2 : Byte) : BitVec 16 := (b1.setWidth 16) <<< 8 ||| b2.setWidth 16

/-- The i-th received byte; 0 past the end, which no reachable state asks for (log entry 21). -/
def receivedByte (bytes : List Byte) (i : Nat) : Byte := bytes.getD i 0

/-! ## Operand registers (R73; registers an operation does not use keep their value, log entry 13) -/

/-- The registers of a register operation: WRREGS, RDREGS, WRREG, RDREG. -/
def loadRegisterOperands (o : OpSel) (a : BitVec 16) (n : BitVec 16) (tx : List Byte) (s : State) : State :=
  { s with op := o, addr := a, cnt := n, txBuf := tx, rxBuf := [] }

/-- The registers of a command operation: SETCMD, GETCMD. -/
def loadCommandOperands (o : OpSel) (c : Byte) (n : BitVec 16) (tx : List Byte) (s : State) : State :=
  { s with op := o, cmd := c, cnt := n, txBuf := tx, rxBuf := [] }

/-- The registers of a buffer operation: WRBUF, RDBUF. -/
def loadBufferOperands (o : OpSel) (f : Byte) (n : BitVec 16) (tx : List Byte) (s : State) : State :=
  { s with op := o, off := f, cnt := n, txBuf := tx, rxBuf := [] }

/-- A payload's length as the CNT operand. -/
def payloadCount (p : List Byte) : BitVec 16 := BitVec.ofNat 16 p.length

/-! ## Frames (R78) -/

/-- The header bytes of the frame of the operation in H.op, all sent by Transmit (R78). An operation that frames nothing has
none. -/
def frameHeader (s : State) : List Byte :=
  match s.op with
  | .wrregs => [s.par.opcWriteRegister, hiByte s.addr, loByte s.addr]
  | .rdregs => [s.par.opcReadRegister, hiByte s.addr, loByte s.addr, s.par.rdDummy]
  | .setcmd => [s.cmd]
  | .getcmd => [s.cmd]
  | .wrbuf => [s.par.opcWriteBuffer, s.off]
  | .rdbuf => [s.par.opcReadBuffer, s.off, s.par.rdDummy]
  | .wrreg => [s.par.opcWriteRegister, hiByte s.addr, loByte s.addr]
  | .rdreg => [s.par.opcReadRegister, hiByte s.addr, loByte s.addr, s.par.rdDummy]
  | .init => []
  | .deinit => []
  | .getstate => []
  | .geterror => []
  | .dispatch => []

/-- The operations whose positions after the header are R positions, sent by Receive and kept (R78). -/
def receives : OpSel → Bool
  | .rdregs => true
  | .getcmd => true
  | .rdbuf => true
  | .rdreg => true
  | .wrregs => false
  | .setcmd => false
  | .wrbuf => false
  | .wrreg => false
  | .init => false
  | .deinit => false
  | .getstate => false
  | .geterror => false
  | .dispatch => false

/-- The number of byte exchanges of the frame: its header and H.cnt (R79). -/
def frameLength (s : State) : Nat := (frameHeader s).length + s.cnt.toNat

/-- Position j is an R position: its received byte is kept (R78). -/
def keepsByte (s : State) (j : Nat) : Bool :=
  receives s.op && decide ((frameHeader s).length ≤ j)

/-- The byte the controller sends at position j (R78): a header byte, then H.txBuf in order or RX_DUMMY. -/
def sentByte (s : State) (j : Nat) : Byte :=
  if j < (frameHeader s).length then (frameHeader s).getD j 0
  else if receives s.op then s.par.rxDummy
  else s.txBuf.getD (j - (frameHeader s).length) 0

end Sys2Proof.Machine
end

