-- ==== Sys2Proof/Machine/Ops.lean ====
section
/-! DEFINITION. The named operations over the state: the primitives of spec/00_scope.md R12, the bounded wait of
40_bus_primitive.md R100, the recording of a fault (R101), which on this machine stands where an exception entry stands on a
processor (60_exceptions.md R200), admission and release (41_transactions.md R121, R123), and the request port. -/

namespace Sys2Proof.Machine

/-! ## The record and the responses -/

/-- Add an event to the observable record (70_reset_and_hazards.md R250). -/
def State.log (e : Event) (s : State) : State := { s with trace := e :: s.trace }

/-- `Respond(r)` to the requester tagged `who` (00_scope.md R12). -/
def State.respond (who : Nat) (r : Response) (s : State) : State := s.log (.respond who r)

/-! ## Draws -/

/-- The inputs that stand at this read: the next scripted ones, or the free value (log entry 2). -/
def State.inputs (s : State) : Inputs :=
  match s.env with
  | [] => Config.draw s.drawn
  | v :: _ => v

/-- The read is over: the next read sees the next inputs. -/
def State.afterRead (s : State) : State := { s with env := s.env.tail, drawn := s.drawn + 1 }

/-- `LinkRead()`: the byte is a draw (00_scope.md R12). -/
def State.linkRead (s : State) : State := s.afterRead.log (.linkRead s.inputs.rxdr)

/-! ## Outputs -/

/-- `SetSel(v)`. -/
def State.setSel (v : Bool) (s : State) : State := { s.log (.sel v) with sel := v }

/-- `SetRst(v)`. -/
def State.setRst (v : Bool) (s : State) : State := { s.log (.rst v) with rst := v }

/-- `Hold(n)`: it changes no state; an event only. -/
def State.hold (n : Nat) (s : State) : State := s.log (.hold n)

/-- `LinkWrite(b)`: it drives TXDR and starts one exchange. -/
def State.linkWrite (b : Byte) (s : State) : State := { s.log (.linkWrite b) with txdr := b }

/-- `Emit(e)`: it drives EVT and raises the valid indication (42_dispatcher.md R166). -/
def State.emit (e : BitVec 4) (s : State) : State := { s.log (.emit e) with evt := e, evtValid := true }

/-! ## Faults (40_bus_primitive.md R101) -/

/-- `RecordFault(k)`: the kind is assigned, not OR-ed, and the operation goes on (R101, R104). -/
def State.recordFault (k : FaultKind) (s : State) : State := { s with errorCode := k.code, callFailed := true }

/-! ## The sequencer -/

/-- The next micro-step is `k`. -/
def State.goTo (k : Point) (s : State) : State := { s with seq := .op k }

/-- The budget a wait loads H.count with; AwaitAck loads none (R100, R35). -/
def WaitPoint.budget (p : Params) : WaitPoint → Option Nat
  | .txn _ .startGate => some p.busyBudget
  | .txn _ (.txe _) => some p.busBudget
  | .txn _ (.rxne _) => some p.busBudget
  | .txn _ .endGate => some p.busyBudget
  | .initReset _ => some p.resetBudget
  | .deinitReset _ => some p.resetBudget
  | .ack => none

/-- The next micro-step is the first of the wait `k`: H.count is loaded (R100). -/
def State.goWait (k : WaitPoint) (s : State) : State :=
  { s with seq := .wait k, count := (k.budget s.par).getD s.count }

/-- One step of a bounded wait (R100): with H.count = 0 the wait has timed out, and the step is the RecordFault its caller
performs; otherwise one sample is taken, and the wait ends if the predicate holds. `next` is where the operation goes on;
it goes on either way (R104). -/
def State.pollStep (pred : Inputs → Bool) (k : FaultKind) (next : State → State) (s : State) : State :=
  if s.count = 0 then next (s.recordFault k)
  else if pred s.inputs then next ({ s.afterRead with count := s.count - 1 }.log (.sample s.inputs))
  else { s.afterRead with count := s.count - 1 }.log (.sample s.inputs)

/-- The sequencer state an operation returns to after its response. -/
def Resume.seq : Resume → Seq
  | .idle => .idle
  | .test => .op (.disp .test)
  | .ack => .wait .ack
  | .done => .op (.disp .done)

/-- H.op after the response of an operation that returns to `r`: DISPATCH, where a DISPATCH is the operation in progress again
(10_state.md R33), else the register keeps its value, since Idle has no operation in progress (log entry 24). -/
def Resume.op (r : Resume) (o : OpSel) : OpSel :=
  match r with
  | .idle => o
  | .test => .dispatch
  | .ack => .dispatch
  | .done => .dispatch

/-- The operation has responded, and the sequencer returns to `r`; the other transient registers keep their values (DESIGN
CHOICE, log entry 28). -/
def State.resumeAt (r : Resume) (s : State) : State := { s with seq := r.seq, op := r.op s.op }

/-- The place to which an operation admitted now will return: the dispatcher's, where a DISPATCH in progress stands between
two of its own primitives, else Idle (42_dispatcher.md R167; log entry 9). -/
def Seq.resume : Seq → Resume
  | .op (.disp .test) => .test
  | .op (.disp .done) => .done
  | .wait .ack => .ack
  | .idle => .idle
  | .op (.txn _ _) => .idle
  | .op (.init _ _) => .idle
  | .op (.deinit _ _) => .idle
  | .wait (.txn _ _) => .idle
  | .wait (.initReset _) => .idle
  | .wait (.deinitReset _) => .idle

/-- The controller is quiet: no operation is in progress, but for a DISPATCH waiting in AwaitAck (70_reset_and_hazards.md
R240). -/
def Seq.quiet : Seq → Bool
  | .idle => true
  | .wait .ack => true
  | .op _ => false
  | .wait (.txn _ _) => false
  | .wait (.initReset _) => false
  | .wait (.deinitReset _) => false

/-! ## Admission and release (41_transactions.md R121, R123) -/

/-- The admission test: H.state = Ready and H.lockHeld = 0. -/
def State.admits (s : State) : Bool := s.state == .ready && !s.lockHeld

/-- The lock acquisition of an admission: lock, Busy, callFailed cleared, errorCode cleared under PerOperation. -/
def State.acquire (s : State) : State :=
  { s with
    lockHeld := true
    state := .busy
    callFailed := false
    errorCode := if s.par.errPolicy = .perOperation then 0 else s.errorCode }

/-- The first micro-step of DeviceReady (40_bus_primitive.md R107, R108): the wake toggle if H.deepSleep = 1, else the gate
at once. It reads H.deepSleep as it stands at admission (R109). -/
def State.startTxn (o : Owner) (s : State) : State :=
  if s.deepSleep then s.goTo (.txn o .wakeSel) else s.goWait (.txn o .startGate)

/-- `Admit(o)` of a request being presented (R121): Busy and nothing else, or the lock is taken, the operands loaded and the
transaction started. One indivisible step. -/
def admission (load : State → State) (s : State) : Host.Outcome State Fault Refusal :=
  .next (if s.admits
    then ({ load s.acquire with client := s.asking }).startTxn (.requester s.seq.resume)
    else s.respond s.asking (.result .busy []))

/-- State restore and lock release of a Release (R123). -/
def State.unlock (s : State) : State := { s with state := .ready, lockHeld := false }

/-! ## The request port -/

/-- The request that is due now, with the port without it; none if the controller moves (log entry 6). -/
def State.due (s : State) : Option (Request × List Request) :=
  match s.port with
  | [] => none
  | r :: rest => if r.delay = 0 then some (r, rest) else none

/-- The request `r` is taken from the port and served for its requester. -/
def State.serving (r : Request) (rest : List Request) (s : State) : State := { s with port := rest, asking := r.who }

/-- One controller step passed while the next request was not due. -/
def State.tick (s : State) : State :=
  match s.port with
  | [] => s
  | r :: rest => { s with port := { r with delay := r.delay - 1 } :: rest }

/-- A refused descriptor sets M.refused and changes nothing else; it gets no response (30_encoding.md R76). -/
def State.refuse (s : State) : State := { s with refused := true }

end Sys2Proof.Machine
end

