-- ==== Sys2Proof/Machine/Dispatcher.lean ====
section
/-! DEFINITION. DISPATCH, the interrupt-status decoder and dispatcher (spec/42_dispatcher.md): its acceptance and its own
micro-steps; its two inner transactions run by Machine/Transactions.lean. -/

namespace Sys2Proof.Machine

/-- Host duty (a): Ready, unlocked and no DISPATCH active (70_reset_and_hazards.md R240). -/
def dispatchAllowed (s : State) : Bool := s.admits && !s.dActive

/-- DISPATCH (R161): its acceptance sets dActive and admits the GET of three status bytes in the same step (log entry 8); a
presentation that breaks duty (a) has no move. -/
def execDispatch (s : State) : Host.Outcome State Fault Refusal :=
  if dispatchAllowed s then
    .next ((loadCommandOperands .getcmd s.par.opcGetIrqStatus 3 []
      ({ s with dActive := true, dClient := s.asking }).acquire).startTxn .dispatchGet)
  else .fault .dispatchDuty

/-- The dispatcher goes on with the entry after H.dCursor, or with its response after the last one (R161). -/
def nextEntry (s : State) : State :=
  if s.dCursor.toNat + 1 < dispatchOrder.length then { s with dCursor := s.dCursor + 1, seq := .op (.disp .test) }
  else s.goTo (.disp .done)

/-- One of the dispatcher's own micro-steps that is no wait (R161, R166). After Done, H.dStat, H.dWord and H.dCursor keep their
last values, to which the spec gives no meaning outside a DISPATCH (10_state.md R34; DESIGN CHOICE, log entry 28). -/
def dispStep (p : DispPoint) (s : State) : State :=
  match p with
  | .test =>
    match reaction s.par.irq s.dWord s.dCursor.toNat with
    | some e => (s.emit e).goWait .ack
    | none => nextEntry s
  | .done => { (s.respond s.dClient .done) with dActive := false, seq := .idle }

/-- One step of AwaitAck (R166): with EVT_ACK = 1 the valid indication is dropped and the dispatcher goes on; else it goes on
waiting (log entry 16). No request admitted during the wait is in progress when this step is taken: the sequencer then
stands in that request's operation (R167). -/
def ackStep (s : State) : State :=
  if s.inputs.evtAck then nextEntry ({ s.afterRead.log .ack with evtValid := false }) else s.afterRead

end Sys2Proof.Machine
end

