-- ==== Sys2Proof/Machine/Lifecycle.lean ====
section
/-! DEFINITION. INIT, DEINIT and the two queries (spec/43_lifecycle.md): their acceptance and, for INIT and DEINIT, the
micro-steps after it. -/

namespace Sys2Proof.Machine

/-! ## INIT (R181) -/

/-- Host duty (b) for INIT: quiet and uninitialized (70_reset_and_hazards.md R240). -/
def initAllowed (s : State) : Bool :=
  s.seq.quiet && (s.state == .uninitializedAfterReset || s.state == .uninitializedAfterRFReady)

/-- INIT's first micro-step after its acceptance: the reset step only from UninitializedAfterReset (R181). -/
def initFirst (prev : Lifecycle) : InitPoint := if prev = .uninitializedAfterReset then .setRst else .setSel

/-- INIT (R181): its acceptance sets Busy and clears callFailed, and INIT is the operation in progress (10_state.md R33); a
presentation that breaks duty (b) has no move. -/
def execInit (c : BitVec 3) (s : State) : Host.Outcome State Fault Refusal :=
  if initAllowed s then
    .next (({ s with state := .busy, callFailed := false, op := .init, client := s.asking }).goTo
      (.init { code := c, prev := s.state, back := s.seq.resume } (initFirst s.state)))
  else .fault .initDuty

/-- INIT configures the bus: on success, and on failure under INIT_FAIL_STATE = Ready (R181). -/
def initConfigures (s : State) : Bool := !s.callFailed || s.par.initFailState == .ready

/-- Where INIT goes on after its reset wait. -/
def initAfterWait (j : InitJob) (s : State) : State :=
  if initConfigures s then s.goTo (.init j .setSel) else s.goTo (.init j .respond)

/-- The assignments of INIT before its response (R181). -/
def initFinish (j : InitJob) (s : State) : State :=
  if initConfigures s then
    { s with
      baudPrescaler := j.code
      presc := j.code
      busEnabled := true
      deepSleep := true
      lockHeld := false
      errorCode := if s.callFailed then s.errorCode else 0
      state := .ready }
  else { s with state := j.prev }

/-- One micro-step of INIT that is no wait. H.callFailed keeps its value after the response (DESIGN CHOICE, log entry 28). -/
def initStep (j : InitJob) (p : InitPoint) (s : State) : State :=
  match p with
  | .setRst => (s.setRst false).goWait (.initReset j)
  | .setSel => (s.setSel false).goTo (.init j .respond)
  | .respond =>
    ((initFinish j s).respond s.client (.result (classify s.callFailed) [])).resumeAt j.back

/-- One step of INIT's reset-confirmation wait: RSTST = 0. -/
def initWaitStep (j : InitJob) (s : State) : State := s.pollStep outOfReset .timeout (initAfterWait j)

/-! ## DEINIT (R184) -/

/-- DEINIT (R184): its acceptance sets Busy, clears callFailed and disables the bus, and DEINIT is the operation in progress
(10_state.md R33); presented when not quiet it has no move (duty (b)). -/
def execDeinit (s : State) : Host.Outcome State Fault Refusal :=
  if s.seq.quiet then
    .next (({ s with state := .busy, callFailed := false, busEnabled := false, op := .deinit, client := s.asking }).goTo
      (.deinit s.seq.resume .setRst))
  else .fault .deinitDuty

/-- The assignments of DEINIT before its response (R184). -/
def deinitFinish (s : State) : State :=
  { s with errorCode := 0, lockHeld := false, state := .uninitializedAfterReset }

/-- One micro-step of DEINIT that is no wait. H.callFailed keeps its value after the response (DESIGN CHOICE, log entry 28). -/
def deinitStep (back : Resume) (p : DeinitPoint) (s : State) : State :=
  match p with
  | .setRst => (s.setRst true).goWait (.deinitReset back)
  | .setSel => (s.setSel false).goTo (.deinit back .respond)
  | .respond =>
    ((deinitFinish s).respond s.client (.result (classify s.callFailed) [])).resumeAt back

/-- One step of DEINIT's reset-confirmation wait: RSTST = 1. -/
def deinitWaitStep (back : Resume) (s : State) : State :=
  s.pollStep underReset .timeout (State.goTo (.deinit back .setSel))

/-! ## Queries (R186, R187) -/

/-- GETSTATE (R186): the zero-extended code of H.state, at once and in any state. -/
def execGetstate (s : State) : Host.Outcome State Fault Refusal :=
  .next (s.respond s.asking (.value (s.state.code.setWidth 32)))

/-- GETERROR (R187): H.errorCode, at once and in any state. -/
def execGeterror (s : State) : Host.Outcome State Fault Refusal :=
  .next (s.respond s.asking (.value s.errorCode))

end Sys2Proof.Machine
end

