-- ==== Sys2Proof/Machine/Transactions.lean ====
section
/-! DEFINITION. The transactions (spec/41_transactions.md): the admission of each of the eight requests, and the micro-steps
of the envelope they share (R122), of the bus primitive (40_bus_primitive.md R102, R103) and of the release (R123). -/

namespace Sys2Proof.Machine

/-! ## The requests -/

/-- WRREGS (R124). -/
def execWrregs (a : BitVec 16) (p : List Byte) (s : State) : Host.Outcome State Fault Refusal :=
  admission (loadRegisterOperands .wrregs a (payloadCount p) p) s

/-- RDREGS (R125). -/
def execRdregs (a n : BitVec 16) (s : State) : Host.Outcome State Fault Refusal :=
  admission (loadRegisterOperands .rdregs a n []) s

/-- SETCMD (R130). -/
def execSetcmd (c : Byte) (p : List Byte) (s : State) : Host.Outcome State Fault Refusal :=
  admission (loadCommandOperands .setcmd c (payloadCount p) p) s

/-- GETCMD (R132). -/
def execGetcmd (c : Byte) (n : BitVec 16) (s : State) : Host.Outcome State Fault Refusal :=
  admission (loadCommandOperands .getcmd c n []) s

/-- WRBUF (R134). -/
def execWrbuf (f : Byte) (p : List Byte) (s : State) : Host.Outcome State Fault Refusal :=
  admission (loadBufferOperands .wrbuf f (payloadCount p) p) s

/-- RDBUF (R135). -/
def execRdbuf (f : Byte) (n : BitVec 16) (s : State) : Host.Outcome State Fault Refusal :=
  admission (loadBufferOperands .rdbuf f n []) s

/-- WRREG: WRREGS with the one byte (R136, R73). -/
def execWrreg (a : BitVec 16) (b : Byte) (s : State) : Host.Outcome State Fault Refusal :=
  admission (loadRegisterOperands .wrreg a 1 [b]) s

/-- RDREG: RDREGS with count 1 (R137, R73). -/
def execRdreg (a : BitVec 16) (s : State) : Host.Outcome State Fault Refusal :=
  admission (loadRegisterOperands .rdreg a 1 []) s

/-! ## The frame -/

/-- Go on with position j of the frame, or deselect after its last position (30_encoding.md R78). -/
def nextPosition (o : Owner) (j : Nat) (s : State) : State :=
  if j < frameLength s then s.goWait (.txn o (.txe j)) else s.goTo (.txn o .frameDesel)

/-- SETCMD's deepSleep update, which stands before SetSel(1) (R122, R130); no other transaction writes deepSleep. -/
def updateDeepSleep (s : State) : State :=
  if s.op = .setcmd then { s with deepSleep := sleepsAfter s.par s.cmd } else s

/-- The LinkRead of position j: the byte of an R position is kept, that of a T position is discarded (R78). -/
def readPosition (j : Nat) (s : State) : State :=
  if keepsByte s j then { s.linkRead with rxBuf := s.rxBuf ++ [s.inputs.rxdr] } else s.linkRead

/-! ## Release (R123) and DISPATCH's use of it (42_dispatcher.md R161, R163) -/

/-- The data of the response: H.rxBuf for the reading operations (R123). -/
def responseData (s : State) : List Byte := if receives s.op then s.rxBuf else []

/-- The release of a requester's transaction: classify, restore the state, release the lock, respond. The transient registers
(10_state.md R33) keep their last values after the response, where the spec gives them none (DESIGN CHOICE, log entry 28). -/
def releaseToRequester (back : Resume) (s : State) : State :=
  (s.unlock.respond s.client (.result (classify s.callFailed) (responseData s))).resumeAt back

/-- The release of DISPATCH's GET and the admission of its CLR, one indivisible step (42_dispatcher.md R163): the three bytes
are latched, the status word assembled, and the CLR sends the two status bytes as read (R162, R164). -/
def releaseGetAdmitClr (s : State) : State :=
  let t : State :=
    { s.unlock with
      dStat := { s0 := receivedByte s.rxBuf 0, s1 := receivedByte s.rxBuf 1, s2 := receivedByte s.rxBuf 2 }
      dWord := statusWord (receivedByte s.rxBuf 1) (receivedByte s.rxBuf 2) }
  (loadCommandOperands .setcmd t.par.opcClrIrqStatus 2 [t.dStat.s1, t.dStat.s2] t.acquire).startTxn .dispatchClr

/-- The release of DISPATCH's CLR: the dispatcher goes on with entry 0 of its order (R161), and DISPATCH is the operation in
progress again (10_state.md R33; log entry 24). The CLR's transient registers keep their values (DESIGN CHOICE, log entry 28). -/
def releaseClr (s : State) : State := { s.unlock with dCursor := 0, op := .dispatch, seq := .op (.disp .test) }

/-- `Release` by whose transaction it is. -/
def releaseTxn (o : Owner) (s : State) : State :=
  match o with
  | .requester back => releaseToRequester back s
  | .dispatchGet => releaseGetAdmitClr s
  | .dispatchClr => releaseClr s

/-! ## Micro-steps -/

/-- One micro-step of a transaction that is no wait (R122). -/
def txnStep (o : Owner) (p : TxnPoint) (s : State) : State :=
  match p with
  | .wakeSel => (s.setSel true).goTo (.txn o .wakeHold)
  | .wakeHold => (s.hold s.par.wakeHold).goTo (.txn o .wakeDesel)
  | .wakeDesel => (s.setSel false).goWait (.txn o .startGate)
  | .frameSel => nextPosition o 0 ((updateDeepSleep s).setSel true)
  | .linkWrite j => (s.linkWrite (sentByte s j)).goWait (.txn o (.rxne j))
  | .linkRead j => nextPosition o (j + 1) (readPosition j s)
  | .frameDesel =>
    if skipsFinalGate s.par s.op s.cmd then (s.setSel false).goTo (.txn o .release)
    else (s.setSel false).goWait (.txn o .endGate)
  | .release => releaseTxn o s

/-- One step of a bounded wait of a transaction: the gates record RfBusyTimeout (R106), the link waits Timeout (R102). -/
def txnWaitStep (o : Owner) (w : TxnWait) (s : State) : State :=
  match w with
  | .startGate => s.pollStep gateOpen .rfBusyTimeout (State.goTo (.txn o .frameSel))
  | .txe j => s.pollStep txReady .timeout (State.goTo (.txn o (.linkWrite j)))
  | .rxne j => s.pollStep rxReady .timeout (State.goTo (.txn o (.linkRead j)))
  | .endGate => s.pollStep gateOpen .rfBusyTimeout (State.goTo (.txn o .release))

end Sys2Proof.Machine
end

