-- ==== Sys2Proof/Machine/Dispatch.lean ====
section
/-! DEFINITION. exec: the meaning of each request at the moment it is presented (spec/30_encoding.md R72), one arm per
constructor of Instr. A transaction's meaning is its admission (41_transactions.md R121); what follows are the controller's
own steps (Machine/Sequencer.lean). -/

namespace Sys2Proof.Machine

def exec (i : Instr) (s : State) : Host.Outcome State Fault Refusal :=
  match i with
  | .wrregs a p => Sys2Proof.Machine.execWrregs a p s
  | .rdregs a n => Sys2Proof.Machine.execRdregs a n s
  | .setcmd c p => Sys2Proof.Machine.execSetcmd c p s
  | .getcmd c n => Sys2Proof.Machine.execGetcmd c n s
  | .wrbuf f p => Sys2Proof.Machine.execWrbuf f p s
  | .rdbuf f n => Sys2Proof.Machine.execRdbuf f n s
  | .wrreg a b => Sys2Proof.Machine.execWrreg a b s
  | .rdreg a => Sys2Proof.Machine.execRdreg a s
  | .init c => Sys2Proof.Machine.execInit c s
  | .deinit => Sys2Proof.Machine.execDeinit s
  | .getstate => Sys2Proof.Machine.execGetstate s
  | .geterror => Sys2Proof.Machine.execGeterror s
  | .dispatch => Sys2Proof.Machine.execDispatch s

end Sys2Proof.Machine
end

