-- ==== Sys2Proof/Machine/Sequencer.lean ====
section
/-! DEFINITION. The controller's own step: the micro-step at which the sequencer stands (spec/10_state.md R23, R25). -/

namespace Sys2Proof.Machine

/-- The micro-step at a point that is no wait. -/
def opStep (k : Point) (s : State) : State :=
  match k with
  | .txn o p => txnStep o p s
  | .init j p => initStep j p s
  | .deinit back p => deinitStep back p s
  | .disp p => dispStep p s

/-- One step of the wait the operation is blocked in. -/
def waitStep (k : WaitPoint) (s : State) : State :=
  match k with
  | .txn o w => txnWaitStep o w s
  | .initReset j => initWaitStep j s
  | .deinitReset back => deinitWaitStep back s
  | .ack => ackStep s

/-- One controller step. Idle, the controller waits for a request and nothing changes (60_exceptions.md R223). -/
def advance (s : State) : State :=
  match s.seq with
  | .idle => s
  | .op k => opStep k s
  | .wait k => waitStep k s

end Sys2Proof.Machine
end

