-- ==== Sys2Proof/Machine/Step.lean ====
section
/-! DEFINITION. One step of the machine (spec/10_state.md R25): the arbiter serves the request that is due, or the controller
takes its next micro-step; and the placing of a request where the next step serves it. -/

namespace Sys2Proof.Machine

/-- The arbiter serves a presented request at once: a descriptor that spells no request is refused (30_encoding.md R76), any
other request runs. -/
def present (r : Request) (s : State) : Host.Outcome State Fault Refusal :=
  match decode s.par.prescalerCodes r.desc r.payload with
  | .ok i => exec i s
  | .error _ => .next s.refuse

/-- One step: the request that is due is served, else the controller moves and the next request comes one step nearer. -/
def step (s : State) : Host.Outcome State Fault Refusal :=
  match s.due with
  | some (r, rest) => present r (s.serving r rest)
  | none => .next (advance s).tick

/-- The request of a table word, presented so that the next step serves it (log entry 19). -/
def State.withFetchWord (s : State) (nbits w : Nat) : State :=
  { s with
    port := { delay := 0, who := 0, desc := tableDesc nbits w, payload := zeroPayload (tableDesc nbits w) } :: s.port }

end Sys2Proof.Machine
end

