-- ==== Sys2Proof/Safety.lean ====
section
/-! DEFINITION. What claims about the controller are stated in terms of: what a request is and what its frame is, read off
spec/30_encoding.md R78 for the request itself and not for the transient registers; projections of the observable record
(70_reset_and_hazards.md R250); and what a coherent state is (10_state.md R22 to R35). -/

namespace Sys2Proof

/-! ## Requests -/

/-- The eight transaction requests (41_transactions.md). -/
def Instr.isTransaction : Instr → Bool
  | .wrregs _ _ => true
  | .rdregs _ _ => true
  | .setcmd _ _ => true
  | .getcmd _ _ => true
  | .wrbuf _ _ => true
  | .rdbuf _ _ => true
  | .wrreg _ _ => true
  | .rdreg _ => true
  | .init _ => false
  | .deinit => false
  | .getstate => false
  | .geterror => false
  | .dispatch => false

/-- The eight operations that are transactions (30_encoding.md R72, OPSEL 0x0 to 0x7). -/
def OpSel.isTransaction : OpSel → Bool
  | .wrregs => true
  | .rdregs => true
  | .setcmd => true
  | .getcmd => true
  | .wrbuf => true
  | .rdbuf => true
  | .wrreg => true
  | .rdreg => true
  | .init => false
  | .deinit => false
  | .getstate => false
  | .geterror => false
  | .dispatch => false

/-- One position of a frame: T marks a byte sent by Transmit, R a byte sent by Receive, whose received byte is kept
(30_encoding.md R78). -/
inductive Slot where
  | transmit (b : Byte)
  | receive (b : Byte)
  deriving DecidableEq, Repr

/-- The byte on the wire at a position. -/
def Slot.sent : Slot → Byte
  | .transmit b => b
  | .receive b => b

/-- The position is an R position. -/
def Slot.isReceive : Slot → Bool
  | .transmit _ => false
  | .receive _ => true

/-- `cnt` R positions: RX_DUMMY each (R78). -/
def receiveSlots (p : Params) (n : Nat) : List Slot := List.replicate n (.receive p.rxDummy)

/-- The frame of each transaction request, position by position, as the table of 30_encoding.md R78 lists it. -/
def Instr.frame (p : Params) : Instr → List Slot
  | .wrregs a bs => [.transmit p.opcWriteRegister, .transmit (a.extractLsb' 8 8), .transmit (a.extractLsb' 0 8)] ++ bs.map .transmit
  | .rdregs a n =>
    [.transmit p.opcReadRegister, .transmit (a.extractLsb' 8 8), .transmit (a.extractLsb' 0 8), .transmit p.rdDummy] ++
      receiveSlots p n.toNat
  | .setcmd c bs => .transmit c :: bs.map .transmit
  | .getcmd c n => .transmit c :: receiveSlots p n.toNat
  | .wrbuf f bs => [.transmit p.opcWriteBuffer, .transmit f] ++ bs.map .transmit
  | .rdbuf f n => [.transmit p.opcReadBuffer, .transmit f, .transmit p.rdDummy] ++ receiveSlots p n.toNat
  | .wrreg a b =>
    [.transmit p.opcWriteRegister, .transmit (a.extractLsb' 8 8), .transmit (a.extractLsb' 0 8), .transmit b]
  | .rdreg a =>
    [.transmit p.opcReadRegister, .transmit (a.extractLsb' 8 8), .transmit (a.extractLsb' 0 8), .transmit p.rdDummy,
      .receive p.rxDummy]
  | .init _ => []
  | .deinit => []
  | .getstate => []
  | .geterror => []
  | .dispatch => []

/-- The request is the enter-sleep command, the one transaction without a final gate (41_transactions.md R122). -/
def Instr.entersSleep (p : Params) : Instr → Bool
  | .setcmd c _ => c == p.opcSetSleep
  | .wrregs _ _ => false
  | .rdregs _ _ => false
  | .getcmd _ _ => false
  | .wrbuf _ _ => false
  | .rdbuf _ _ => false
  | .wrreg _ _ => false
  | .rdreg _ => false
  | .init _ => false
  | .deinit => false
  | .getstate => false
  | .geterror => false
  | .dispatch => false

/-- H.deepSleep after the transaction, from H.deepSleep at its admission: only SETCMD writes it (41_transactions.md R130). -/
def Instr.deepSleepAfter (p : Params) (before : Bool) : Instr → Bool
  | .setcmd c _ => c == p.opcSetSleep || c == p.opcSetRxDutyCycle
  | .wrregs _ _ => before
  | .rdregs _ _ => before
  | .getcmd _ _ => before
  | .wrbuf _ _ => before
  | .rdbuf _ _ => before
  | .wrreg _ _ => before
  | .rdreg _ => before
  | .init _ => before
  | .deinit => before
  | .getstate => before
  | .geterror => before
  | .dispatch => before

/-- The number of busy/ready gates a transaction runs: 2, or 1 for the enter-sleep command (41_transactions.md R138). -/
def Instr.gates (p : Params) (i : Instr) : Nat := if i.entersSleep p then 1 else 2

namespace Machine

/-! ## Projections of the record -/

/-- The events of the wire trace: changes of SEL and bytes written to the link (70_reset_and_hazards.md R250). -/
def Event.onWire : Event → Bool
  | .sel _ => true
  | .linkWrite _ => true
  | .rst _ => false
  | .hold _ => false
  | .linkRead _ => false
  | .sample _ => false
  | .respond _ _ => false
  | .emit _ => false
  | .ack => false

/-- The byte a LinkRead drew. -/
def Event.byteRead : Event → Option Byte
  | .linkRead b => some b
  | .sel _ => none
  | .linkWrite _ => none
  | .rst _ => none
  | .hold _ => none
  | .sample _ => none
  | .respond _ _ => none
  | .emit _ => none
  | .ack => none

/-- The code an Emit presented. -/
def Event.emitted : Event → Option (BitVec 4)
  | .emit c => some c
  | .sel _ => none
  | .linkWrite _ => none
  | .linkRead _ => none
  | .rst _ => none
  | .hold _ => none
  | .sample _ => none
  | .respond _ _ => none
  | .ack => none

/-- The event is a sample. -/
def Event.isSample : Event → Bool
  | .sample _ => true
  | .sel _ => false
  | .linkWrite _ => false
  | .linkRead _ => false
  | .rst _ => false
  | .hold _ => false
  | .respond _ _ => false
  | .emit _ => false
  | .ack => false

/-- The event is a LinkWrite or a LinkRead. -/
def Event.isLinkAccess : Event → Bool
  | .linkWrite _ => true
  | .linkRead _ => true
  | .sel _ => false
  | .rst _ => false
  | .hold _ => false
  | .sample _ => false
  | .respond _ _ => false
  | .emit _ => false
  | .ack => false

/-- The event is a SetSel. -/
def Event.isSel : Event → Bool
  | .sel _ => true
  | .linkWrite _ => false
  | .linkRead _ => false
  | .rst _ => false
  | .hold _ => false
  | .sample _ => false
  | .respond _ _ => false
  | .emit _ => false
  | .ack => false

/-- The event is a Hold. -/
def Event.isHold : Event → Bool
  | .hold _ => true
  | .sel _ => false
  | .linkWrite _ => false
  | .linkRead _ => false
  | .rst _ => false
  | .sample _ => false
  | .respond _ _ => false
  | .emit _ => false
  | .ack => false

/-- The wire trace of a stretch of the record (which is kept newest first), oldest first. -/
def wireOf (es : List Event) : List Event := (es.filter Event.onWire).reverse

/-- The bytes read in a stretch of the record, oldest first. -/
def bytesReadOf (es : List Event) : List Byte := (es.filterMap Event.byteRead).reverse

/-- The codes emitted in a stretch of the record, oldest first. -/
def emittedOf (es : List Event) : List (BitVec 4) := (es.filterMap Event.emitted).reverse

/-- The wire events of one frame: select, its bytes in order, deselect (30_encoding.md R78). -/
def frameOnWire (slots : List Slot) : List Event :=
  Event.sel true :: slots.map (fun x => Event.linkWrite x.sent) ++ [Event.sel false]

/-- The wire events of the wake toggle, if H.deepSleep asks for it (40_bus_primitive.md R107). -/
def wakeOnWire (deepSleep : Bool) : List Event := if deepSleep then [Event.sel true, Event.sel false] else []

/-! ## Inputs to come -/

/-- The inputs the k-th next read will see. -/
def State.inputsAt (s : State) (k : Nat) : Inputs :=
  match s.env[k]? with
  | some v => v
  | none => Config.draw (s.drawn + k)

/-! ## Runs -/

/-- `n` steps of the machine from `s` end in `u`. -/
def RunsTo (n : Nat) (s u : State) : Prop := Sys2Proof.core.run n s = .next u

/-- A run has ended: Idle, no request presented and not yet answered, no event waiting (70_reset_and_hazards.md R251). A request
is presented when it is due; one still to come (delay above 0 in the port) is not, nor is any behind it (log entry 27). -/
abbrev State.Ended (s : State) : Prop :=
  s.seq = .idle ∧ (∀ r ∈ s.port.head?, r.delay ≠ 0) ∧ s.evtValid = false

/-! ## Where the sequencer stands -/

/-- Inside a transaction, from its admission to its release (10_state.md R29). -/
def Seq.inTxn : Seq → Bool
  | .op (.txn _ _) => true
  | .wait (.txn _ _) => true
  | .idle => false
  | .op (.init _ _) => false
  | .op (.deinit _ _) => false
  | .op (.disp _) => false
  | .wait (.initReset _) => false
  | .wait (.deinitReset _) => false
  | .wait .ack => false

/-- Inside a transaction, INIT or DEINIT: the operations during which H.state is Busy (10_state.md R26). -/
def Seq.inOperation : Seq → Bool
  | .op (.txn _ _) => true
  | .wait (.txn _ _) => true
  | .op (.init _ _) => true
  | .op (.deinit _ _) => true
  | .wait (.initReset _) => true
  | .wait (.deinitReset _) => true
  | .idle => false
  | .op (.disp _) => false
  | .wait .ack => false

/-- The place an operation returns to, if it was presented by a requester. -/
def Owner.back : Owner → Option Resume
  | .requester back => some back
  | .dispatchGet => none
  | .dispatchClr => none

/-- The OPSEL `x` is that of a transaction of this owner. -/
def Owner.hasOperation (o : Owner) (x : OpSel) : Bool :=
  match o with
  | .requester _ => x.isTransaction
  | .dispatchGet => x == .getcmd
  | .dispatchClr => x == .setcmd

/-- Where the operation in progress returns to: none for the dispatcher's inner transactions, and the dispatcher's own
places return to themselves. -/
def Seq.back : Seq → Option Resume
  | .op (.txn o _) => o.back
  | .wait (.txn o _) => o.back
  | .op (.init j _) => some j.back
  | .wait (.initReset j) => some j.back
  | .op (.deinit back _) => some back
  | .wait (.deinitReset back) => some back
  | .op (.disp .test) => some .test
  | .op (.disp .done) => some .done
  | .wait .ack => some .ack
  | .idle => some .idle

/-- Inside a DISPATCH, from its acceptance to its completion, with the operations its reactions present (R34). -/
def Seq.inDispatch (q : Seq) : Bool := q.back != some .idle

/-- The event presented last still waits for its acknowledgement: the dispatcher is in AwaitAck, or an operation presented
during the wait is in progress (42_dispatcher.md R166, R167). -/
def Seq.awaitsAck (q : Seq) : Bool := q.back == some .ack

/-- Select is asserted: inside a frame, or inside the wake toggle (40_bus_primitive.md R107, 30_encoding.md R78). -/
def Seq.selects : Seq → Bool
  | .op (.txn _ .wakeSel) => false
  | .op (.txn _ .wakeHold) => true
  | .op (.txn _ .wakeDesel) => true
  | .op (.txn _ .frameSel) => false
  | .op (.txn _ (.linkWrite _)) => true
  | .op (.txn _ (.linkRead _)) => true
  | .op (.txn _ .frameDesel) => true
  | .op (.txn _ .release) => false
  | .wait (.txn _ .startGate) => false
  | .wait (.txn _ (.txe _)) => true
  | .wait (.txn _ (.rxne _)) => true
  | .wait (.txn _ .endGate) => false
  | .idle => false
  | .op (.init _ _) => false
  | .op (.deinit _ _) => false
  | .op (.disp _) => false
  | .wait (.initReset _) => false
  | .wait (.deinitReset _) => false
  | .wait .ack => false

/-- An INIT in progress was accepted from one of the two uninitialized states (70_reset_and_hazards.md R240 (b)). -/
def Seq.initJob : Seq → Option InitJob
  | .op (.init j _) => some j
  | .wait (.initReset j) => some j
  | .op (.txn _ _) => none
  | .op (.deinit _ _) => none
  | .op (.disp _) => none
  | .wait (.txn _ _) => none
  | .wait (.deinitReset _) => none
  | .wait .ack => none
  | .idle => none

/-! ## Coherent states -/

/-- R27: the error code is one of the three kinds; bits 31:2 are 0. -/
def State.ErrorCodeLegal (s : State) : Prop := s.errorCode = 0 ∨ s.errorCode = 1 ∨ s.errorCode = 2

/-- R29: the lock is held exactly inside a transaction. -/
def State.LockMatches (s : State) : Prop := s.lockHeld = s.seq.inTxn

/-- R26: H.state is Busy exactly inside a transaction, INIT or DEINIT; and INIT's `prev` is an uninitialized state. -/
def State.BusyMatches (s : State) : Prop :=
  (s.state = .busy ↔ s.seq.inOperation = true) ∧
    ∀ j, s.seq.initJob = some j → j.prev = .uninitializedAfterReset ∨ j.prev = .uninitializedAfterRFReady

/-- R34: H.dActive is 1 exactly inside a DISPATCH, and the event valid indication is up exactly while an event waits
(42_dispatcher.md R166). -/
def State.DispatchMatches (s : State) : Prop := s.dActive = s.seq.inDispatch ∧ s.evtValid = s.seq.awaitsAck

/-- Select is asserted exactly inside a frame or a wake toggle (10_state.md R30). -/
def State.SelectMatches (s : State) : Prop := s.sel = s.seq.selects

/-- R30: H.PRESC equals H.baudPrescaler. -/
def State.PrescalerMatches (s : State) : Prop := s.presc = s.baudPrescaler

/-- R100: inside a bounded wait H.count is at most the wait's budget. -/
def State.CountBounded (s : State) : Prop :=
  ∀ k b, s.seq = .wait k → k.budget s.par = some b → s.count ≤ b

/-- H.dCursor is an index of the dispatch order (10_state.md R34, 42_dispatcher.md R165). -/
def State.CursorLegal (s : State) : Prop := s.dCursor.toNat < 10

/-- The coherent states: everything the rules say of the Handle and the sequencer together. -/
def State.Coherent (s : State) : Prop :=
  s.ErrorCodeLegal ∧ s.LockMatches ∧ s.BusyMatches ∧ s.DispatchMatches ∧ s.SelectMatches ∧ s.PrescalerMatches ∧
    s.CountBounded ∧ s.CursorLegal

/-! ## The frame in progress -/

/-- The position of the frame at which a transaction stands: the number of positions done. -/
def TxnPoint.position (len : Nat) : TxnPoint → Nat
  | .wakeSel => 0
  | .wakeHold => 0
  | .wakeDesel => 0
  | .frameSel => 0
  | .linkWrite j => j
  | .linkRead j => j
  | .frameDesel => len
  | .release => len

/-- The same for the waits. -/
def TxnWait.position (len : Nat) : TxnWait → Nat
  | .startGate => 0
  | .txe j => j
  | .rxne j => j
  | .endGate => len

/-- Where in its frame the transaction in progress stands, and whose it is. -/
def Seq.txnAt (len : Nat) : Seq → Option (Owner × Nat)
  | .op (.txn o p) => some (o, p.position len)
  | .wait (.txn o w) => some (o, w.position len)
  | .idle => none
  | .op (.init _ _) => none
  | .op (.deinit _ _) => none
  | .op (.disp _) => none
  | .wait (.initReset _) => none
  | .wait (.deinitReset _) => none
  | .wait .ack => none

/-- The position at which a byte exchange of the frame is in progress. -/
def Seq.frameIndex : Seq → Option Nat
  | .op (.txn _ (.linkWrite j)) => some j
  | .op (.txn _ (.linkRead j)) => some j
  | .wait (.txn _ (.txe j)) => some j
  | .wait (.txn _ (.rxne j)) => some j
  | .op (.txn _ .wakeSel) => none
  | .op (.txn _ .wakeHold) => none
  | .op (.txn _ .wakeDesel) => none
  | .op (.txn _ .frameSel) => none
  | .op (.txn _ .frameDesel) => none
  | .op (.txn _ .release) => none
  | .wait (.txn _ .startGate) => none
  | .wait (.txn _ .endGate) => none
  | .idle => none
  | .op (.init _ _) => none
  | .op (.deinit _ _) => none
  | .op (.disp _) => none
  | .wait (.initReset _) => none
  | .wait (.deinitReset _) => none
  | .wait .ack => none

/-- The operation in progress at a place has the OPSEL `x` (10_state.md R33): a requester's transaction one of the eight,
DISPATCH's two transactions GETCMD and SETCMD (their admissions load it, 42_dispatcher.md R161), the dispatcher's own places
DISPATCH. In Idle no operation is in progress. -/
def Seq.hasOperation (q : Seq) (x : OpSel) : Bool :=
  match q with
  | .idle => true
  | .op (.txn o _) => o.hasOperation x
  | .wait (.txn o _) => o.hasOperation x
  | .op (.init _ _) => x == .init
  | .wait (.initReset _) => x == .init
  | .op (.deinit _ _) => x == .deinit
  | .wait (.deinitReset _) => x == .deinit
  | .op (.disp _) => x == .dispatch
  | .wait .ack => x == .dispatch

/-- R33: H.op is the OPSEL of the operation in progress; inside a transaction, H.cnt bytes are held to send (for an operation that sends a payload), an exchange in progress
is at a position of the frame, and H.rxBuf holds one byte for each R position done. -/
def State.TransferMatches (s : State) : Prop :=
  s.seq.hasOperation s.op = true ∧
  (∀ j, s.seq.frameIndex = some j → j < frameLength s) ∧
    ∀ o j, s.seq.txnAt (frameLength s) = some (o, j) →
      (receives s.op = false → s.txBuf.length = s.cnt.toNat) ∧
      s.rxBuf.length = (if receives s.op then j - (frameHeader s).length else 0)

/-- R161, R162, R164: the dispatcher's GET reads three bytes with OPC_GET_IRQSTATUS, and its CLR sends OPC_CLR_IRQSTATUS and
the two status bytes as read, whose big-endian word is H.dWord. -/
def State.InnerMatches (s : State) : Prop :=
  ∀ o j, s.seq.txnAt (frameLength s) = some (o, j) →
    (o = .dispatchGet → s.op = .getcmd ∧ s.cmd = s.par.opcGetIrqStatus ∧ s.cnt = 3) ∧
    (o = .dispatchClr → s.op = .setcmd ∧ s.cmd = s.par.opcClrIrqStatus ∧ s.cnt = 2 ∧
      s.txBuf = [s.dStat.s1, s.dStat.s2] ∧ s.dWord = s.dStat.s1 ++ s.dStat.s2)

/-- R166, R167: while an event waits for its acknowledgement, EVT is the event that entry H.dCursor of the order presents for
H.dWord. -/
def State.EventMatches (s : State) : Prop :=
  s.seq.awaitsAck = true → reaction s.par.irq s.dWord s.dCursor.toNat = some s.evt

/-! ## The bounded waits (R100) -/

/-- What a wait waits for; AwaitAck for EVT_ACK. -/
def WaitPoint.holds : WaitPoint → Inputs → Bool
  | .txn _ .startGate, v => !(v.busy && v.busyms)
  | .txn _ (.txe _), v => v.txe
  | .txn _ (.rxne _), v => v.rxne
  | .txn _ .endGate, v => !(v.busy && v.busyms)
  | .initReset _, v => !v.rstst
  | .deinitReset _, v => v.rstst
  | .ack, v => v.evtAck

/-- The fault a wait's caller records when it times out; AwaitAck is not bounded. -/
def WaitPoint.faultKind : WaitPoint → Option FaultKind
  | .txn _ .startGate => some .rfBusyTimeout
  | .txn _ (.txe _) => some .timeout
  | .txn _ (.rxne _) => some .timeout
  | .txn _ .endGate => some .rfBusyTimeout
  | .initReset _ => some .timeout
  | .deinitReset _ => some .timeout
  | .ack => none

end Machine

end Sys2Proof
end

