-- ==== Sys2Proof/Certificates/Slice0/Obligations.lean ====
section
/-! DEFINITION. The statements about the controller, for the provers. Each formalises numbered rules of spec/ (its docstring
names them) or rests on them; none is proved here. A statement whose docstring names a log entry rests on that choice of the
model. -/

open Sys2Proof
open Sys2Proof.Machine

/-! ## Decoding -/

/-- R92: the encoded examples of 30_encoding.md decode to the requests beside them. -/
def Obligations.EncodedExamplesDecode : Prop :=
  decode Config.prescalerCodes 0x0000000207400000 [0x34, 0x44] = .ok (.wrregs 0x0740 [0x34, 0x44]) ∧
  decode Config.prescalerCodes 0x0000000207400001 [] = .ok (.rdregs 0x0740 2) ∧
  decode Config.prescalerCodes 0x0000000100008402 [0x04] = .ok (.setcmd 0x84 [0x04]) ∧
  decode Config.prescalerCodes 0x0000000300001203 [] = .ok (.getcmd 0x12 3) ∧
  decode Config.prescalerCodes 0x0000000300001004 [0xA1, 0xA2, 0xA3] = .ok (.wrbuf 0x10 [0xA1, 0xA2, 0xA3]) ∧
  decode Config.prescalerCodes 0x0000000300001005 [] = .ok (.rdbuf 0x10 3) ∧
  decode Config.prescalerCodes 0x0000000008AC5A06 [] = .ok (.wrreg 0x08AC 0x5A) ∧
  decode Config.prescalerCodes 0x0000000008AC0007 [] = .ok (.rdreg 0x08AC) ∧
  decode Config.prescalerCodes 0x0000000000000308 [] = .ok (.init 3) ∧
  decode Config.prescalerCodes 0x0000000000000009 [] = .ok .deinit ∧
  decode Config.prescalerCodes 0x000000000000000A [] = .ok .getstate ∧
  decode Config.prescalerCodes 0x000000000000000B [] = .ok .geterror ∧
  decode Config.prescalerCodes 0x000000000000000C [] = .ok .dispatch

/-- R71 to R74: decoding the encoding of a well-formed request gives it back, for every request, every operand and every
PRESCALER_CODES. -/
def Obligations.DecodeOfEncodeIsTheRequest : Prop :=
  ∀ (codes : List (BitVec 3)) (i : Instr), i.wellFormed codes = true →
    decode codes (encode i).1 (encode i).2 = .ok i

/-- R71, R73, R74, R76, R77: what the decoder accepts is well-formed; its selector is the descriptor's, the reserved fields
are 0, every operand is the field the operation uses, unchanged (INIT's code is the whole byte operand, zero-extended), and the
payload is the one presented, as long as CNT says for a write-like operation and empty for any other. -/
def Obligations.DecodedRequestsAreWellFormed : Prop :=
  ∀ (codes : List (BitVec 3)) (d : BitVec 64) (p : List Byte) (i : Instr), decode codes d p = .ok i →
    let b8 : Byte := d.extractLsb' 8 8
    let a16 : BitVec 16 := d.extractLsb' 16 16
    let cnt : BitVec 16 := d.extractLsb' 32 16
    i.wellFormed codes = true ∧ (encode i).2 = p ∧ Desc.opsel (encode i).1 = d.extractLsb' 0 4 ∧
      d.extractLsb' 4 4 = 0#4 ∧ d.extractLsb' 48 16 = 0#16 ∧
      match i with
      | .wrregs a q => a = a16 ∧ q = p ∧ p.length = cnt.toNat
      | .rdregs a n => a = a16 ∧ n = cnt ∧ p = []
      | .setcmd c q => c = b8 ∧ q = p ∧ p.length = cnt.toNat
      | .getcmd c n => c = b8 ∧ n = cnt ∧ p = []
      | .wrbuf f q => f = b8 ∧ q = p ∧ p.length = cnt.toNat
      | .rdbuf f n => f = b8 ∧ n = cnt ∧ p = []
      | .wrreg a b => a = a16 ∧ b = b8 ∧ p = []
      | .rdreg a => a = a16 ∧ p = []
      | .init c => c.setWidth 8 = b8 ∧ c ∈ codes ∧ p = []
      | .deinit => p = []
      | .getstate => p = []
      | .geterror => p = []
      | .dispatch => p = []

/-- R76, R77: a descriptor is refused exactly in the cases (a) to (e), and the reason is the first that applies in that
order. -/
def Obligations.RefusalReasonIsTheFirstThatApplies : Prop :=
  ∀ (codes : List (BitVec 3)) (d : BitVec 64) (p : List Byte),
    let opsel := (d.extractLsb' 0 4).toNat
    let a := 0xD ≤ opsel
    let b := d.extractLsb' 4 4 ≠ 0#4
    let c := d.extractLsb' 48 16 ≠ 0#16
    let e4 := opsel = 8 ∧ ¬ ∃ k ∈ codes, d.extractLsb' 8 8 = k.setWidth 8
    let e5 := if opsel = 0 ∨ opsel = 2 ∨ opsel = 4 then p.length ≠ (d.extractLsb' 32 16).toNat else p ≠ []
    (decode codes d p = .error .opsel ↔ a) ∧
    (decode codes d p = .error .rsv0 ↔ ¬ a ∧ b) ∧
    (decode codes d p = .error .rsv1 ↔ ¬ a ∧ ¬ b ∧ c) ∧
    (decode codes d p = .error .prescaler ↔ ¬ a ∧ ¬ b ∧ ¬ c ∧ e4) ∧
    (decode codes d p = .error .payload ↔ ¬ a ∧ ¬ b ∧ ¬ c ∧ ¬ e4 ∧ e5) ∧
    ((∃ i, decode codes d p = .ok i) ↔ ¬ a ∧ ¬ b ∧ ¬ c ∧ ¬ e4 ∧ ¬ e5)

/-- R71: a field an operation does not use is ignored, whatever it holds. -/
def Obligations.UnusedFieldsAreIgnored : Prop :=
  ∀ (codes : List (BitVec 3)) (b8 b8' : Byte) (a16 a16' cnt cnt' : BitVec 16) (p : List Byte),
    decode codes (packDesc .wrregs b8 a16 cnt) p = decode codes (packDesc .wrregs b8' a16 cnt) p ∧
    decode codes (packDesc .rdregs b8 a16 cnt) p = decode codes (packDesc .rdregs b8' a16 cnt) p ∧
    decode codes (packDesc .setcmd b8 a16 cnt) p = decode codes (packDesc .setcmd b8 a16' cnt) p ∧
    decode codes (packDesc .getcmd b8 a16 cnt) p = decode codes (packDesc .getcmd b8 a16' cnt) p ∧
    decode codes (packDesc .wrbuf b8 a16 cnt) p = decode codes (packDesc .wrbuf b8 a16' cnt) p ∧
    decode codes (packDesc .rdbuf b8 a16 cnt) p = decode codes (packDesc .rdbuf b8 a16' cnt) p ∧
    decode codes (packDesc .wrreg b8 a16 cnt) p = decode codes (packDesc .wrreg b8 a16 cnt') p ∧
    decode codes (packDesc .rdreg b8 a16 cnt) p = decode codes (packDesc .rdreg b8' a16 cnt') p ∧
    decode codes (packDesc .init b8 a16 cnt) p = decode codes (packDesc .init b8 a16' cnt') p ∧
    decode codes (packDesc .deinit b8 a16 cnt) p = decode codes (packDesc .deinit b8' a16' cnt') p ∧
    decode codes (packDesc .getstate b8 a16 cnt) p = decode codes (packDesc .getstate b8' a16' cnt') p ∧
    decode codes (packDesc .geterror b8 a16 cnt) p = decode codes (packDesc .geterror b8' a16' cnt') p ∧
    decode codes (packDesc .dispatch b8 a16 cnt) p = decode codes (packDesc .dispatch b8' a16' cnt') p

/-! ## Steps and the request port -/

/-- R25, R70: the request that is due is decoded and, if it spells a request, the step is exec of that request with the
request taken from the port and its requester noted (the bookkeeping of log entries 6 and 14). -/
def Obligations.StepRunsTheDueRequest : Prop :=
  ∀ (s : State) (r : Request) (rest : List Request) (i : Instr),
    s.port = r :: rest → r.delay = 0 → decode s.par.prescalerCodes r.desc r.payload = .ok i →
    step s = exec i { s with port := rest, asking := r.who }

/-- R76, R36: a refused descriptor sets M.refused, changes no controller state, produces no bus activity and gets no response.
That the step answers a next state and the run goes on is log entry 12 (DEDUCED), that the request is taken from the port log
entry 6, and that its requester is noted log entry 14: the model's, not the spec's. -/
def Obligations.RefusedDescriptorOnlySetsTheMark : Prop :=
  ∀ (s : State) (r : Request) (rest : List Request) (e : RefuseReason),
    s.port = r :: rest → r.delay = 0 → decode s.par.prescalerCodes r.desc r.payload = .error e →
    step s = .next { s with port := rest, asking := r.who, refused := true }

/-- R25 (log entry 6): when no request is due, the step is the controller's own micro-step, and the next request comes one
step nearer: its delay falls by one, and nothing else of the port changes. -/
def Obligations.StepMovesTheControllerWhenNothingIsDue : Prop :=
  ∀ s : State, (∀ r ∈ s.port.head?, r.delay ≠ 0) →
    step s = .next
      { advance s with
        port := match s.port with
          | [] => []
          | r :: rest => { r with delay := r.delay - 1 } :: rest }

/-- Log entry 19: a table word placed by withFetchWord is the request the next step runs. -/
def Obligations.FetchWordIsRunByTheNextStep : Prop :=
  ∀ (s : State) (nbits w : Nat) (i : Instr), s.par.prescalerCodes = Config.prescalerCodes →
    decodeTableWord nbits w = some i → step (s.withFetchWord nbits w) = exec i { s with asking := 0 }

/-! ## Creation -/

/-- R40, R230, R231: the values the spec gives the Handle at creation, under every parameter. The registers R40 leaves
without a value are log entry 5's and are not stated. -/
def Obligations.CreationLeavesTheSpecValues : Prop :=
  ∀ p : Params,
    (p.initialLifecycle = .uninitializedAfterReset → (State.create p).state = .uninitializedAfterReset) ∧
    (p.initialLifecycle = .uninitializedAfterRFReady → (State.create p).state = .uninitializedAfterRFReady) ∧
    (State.create p).errorCode = 0 ∧ (State.create p).lockHeld = false ∧ (State.create p).busEnabled = false ∧
    (State.create p).sel = false ∧ (State.create p).seq = .idle ∧ (State.create p).dActive = false ∧
    (State.create p).refused = false ∧ State.reset = State.create Config.params

/-- R232: the radio's reset line at creation. -/
def Obligations.ResetLineAtCreation : Prop :=
  ∀ p : Params,
    (p.initialLifecycle = .uninitializedAfterReset → (State.create p).rst = true) ∧
    (p.initialLifecycle = .uninitializedAfterRFReady → (State.create p).rst = false)

/-- The Handle is coherent at its creation. Three of the clauses rest on values that R40 leaves open and log entry 5 chooses:
H.PRESC = H.baudPrescaler (both 0), the event valid indication down, and H.dCursor = 0 as an index of the order. -/
def Obligations.CreationIsCoherent : Prop :=
  ∀ p : Params, (State.create p).Coherent ∧ (State.create p).TransferMatches ∧ (State.create p).InnerMatches ∧
    (State.create p).EventMatches

/-- R231: before the first INIT every transaction is answered Busy, and the queries answer the lifecycle code and 0x0. The
tag 0 of the responses is log entry 14, and the stop in place of no move log entry 11. -/
def Obligations.RequestsBeforeTheFirstInit : Prop :=
  ∀ (p : Params) (i : Instr) (s : State), s = State.create p →
    (i.isTransaction = true → exec i s = .next { s with trace := [.respond 0 (.result .busy [])] }) ∧
    exec .getstate s = .next { s with trace :=
      [.respond 0 (.value (if p.initialLifecycle = .uninitializedAfterReset then 0 else 3))] } ∧
    exec .geterror s = .next { s with trace := [.respond 0 (.value 0)] } ∧
    exec .dispatch s = .fault .dispatchDuty ∧
    (∀ c, ∃ t, exec (.init c) s = .next t) ∧ ∃ t, exec .deinit s = .next t

/-! ## Admission -/

/-- R121: the admission of the four register requests, whole: what it writes, and that nothing else changes. The model's
own in it: the split of steps (log entries 7 and 22), the places of the dispatcher at which one is admitted (log entry 9),
the operand registers it does not use, which keep their values (log entry 13), the requester's tag (log entry 14), the
place to which its response leads (log entry 17), and H.count and the dispatcher's registers where the spec gives them no
meaning, which keep their values (log entry 28). -/
def Obligations.RegisterRequestsAreAdmitted : Prop :=
  ∀ (s : State) (a n : BitVec 16) (p : List Byte) (b : Byte),
    let taken (o : OpSel) (cnt : BitVec 16) (tx : List Byte) : State :=
      { s with
        lockHeld := true, state := .busy, callFailed := false
        errorCode := if s.par.errPolicy = .perOperation then 0 else s.errorCode
        op := o, addr := a, cnt := cnt, txBuf := tx, rxBuf := [], client := s.asking
        seq := if s.deepSleep then .op (.txn (.requester s.seq.resume) .wakeSel)
          else .wait (.txn (.requester s.seq.resume) .startGate)
        count := if s.deepSleep then s.count else s.par.busyBudget }
    s.state = .ready → s.lockHeld = false →
      exec (.wrregs a p) s = .next (taken .wrregs (BitVec.ofNat 16 p.length) p) ∧
      exec (.rdregs a n) s = .next (taken .rdregs n []) ∧
      exec (.wrreg a b) s = .next (taken .wrreg 1 [b]) ∧
      exec (.rdreg a) s = .next (taken .rdreg 1 [])

/-- R121: the same for the command and buffer requests, with the opcode in H.cmd or the offset in H.off. The model's own
in it: the split of steps (log entries 7 and 22), the places of the dispatcher at which one is admitted (log entry 9), the
operand registers it does not use, which keep their values (log entry 13), the requester's tag (log entry 14), the place
to which its response leads (log entry 17), and H.count and the dispatcher's registers where the spec gives them no
meaning, which keep their values (log entry 28). -/
def Obligations.CommandAndBufferRequestsAreAdmitted : Prop :=
  ∀ (s : State) (n : BitVec 16) (p : List Byte) (b : Byte),
    let taken (t : State) (o : OpSel) (cnt : BitVec 16) (tx : List Byte) : State :=
      { t with
        lockHeld := true, state := .busy, callFailed := false
        errorCode := if s.par.errPolicy = .perOperation then 0 else s.errorCode
        op := o, cnt := cnt, txBuf := tx, rxBuf := [], client := s.asking
        seq := if s.deepSleep then .op (.txn (.requester s.seq.resume) .wakeSel)
          else .wait (.txn (.requester s.seq.resume) .startGate)
        count := if s.deepSleep then s.count else s.par.busyBudget }
    s.state = .ready → s.lockHeld = false →
      exec (.setcmd b p) s = .next (taken { s with cmd := b } .setcmd (BitVec.ofNat 16 p.length) p) ∧
      exec (.getcmd b n) s = .next (taken { s with cmd := b } .getcmd n []) ∧
      exec (.wrbuf b p) s = .next (taken { s with off := b } .wrbuf (BitVec.ofNat 16 p.length) p) ∧
      exec (.rdbuf b n) s = .next (taken { s with off := b } .rdbuf n [])

/-- R121, R202: a transaction that finds H.state not Ready or the lock held is answered Busy (code 2), and nothing else
changes: not the error code, not the call's fault flag, nothing at all but the response in the record. -/
def Obligations.BusyRequestsChangeNothing : Prop :=
  ResultCode.busy.code = 2 ∧ ∀ (s : State) (i : Instr), i.isTransaction = true → (s.state ≠ .ready ∨ s.lockHeld = true) →
    exec i s = .next { s with trace := .respond s.asking (.result .busy []) :: s.trace }

/-- R139: while a transaction is in flight, another requester's transaction is answered Busy at once, GETSTATE with 2 and
GETERROR with the current error code; the transaction in flight is not disturbed. INIT, DEINIT and DISPATCH presented then
violate a host duty (R240) and have no move, which the model shows as a stop (log entry 11); the port and the tag are log
entries 6 and 14. -/
def Obligations.RequestsDuringATransaction : Prop :=
  ∀ (s : State) (r : Request) (rest : List Request) (i : Instr), s.Coherent → s.seq.inTxn = true →
    s.port = r :: rest → r.delay = 0 → decode s.par.prescalerCodes r.desc r.payload = .ok i →
    let answered (x : Response) : State :=
      { s with port := rest, asking := r.who, trace := .respond r.who x :: s.trace }
    (i.isTransaction = true → step s = .next (answered (.result .busy []))) ∧
    (i = .getstate → step s = .next (answered (.value 2))) ∧
    (i = .geterror → step s = .next (answered (.value s.errorCode))) ∧
    ((∃ c, i = .init c) ∨ i = .deinit ∨ i = .dispatch → ∀ t, step s ≠ .next t)

/-- R186, R187: the queries answer in any state, with no other effect. -/
def Obligations.QueriesAnswerAtOnce : Prop :=
  ∀ s : State,
    exec .getstate s = .next { s with trace := .respond s.asking (.value
      (match s.state with
        | .uninitializedAfterReset => 0
        | .ready => 1
        | .busy => 2
        | .uninitializedAfterRFReady => 3)) :: s.trace } ∧
    exec .geterror s = .next { s with trace := .respond s.asking (.value s.errorCode) :: s.trace }

/-- R22, R30, R38: what serving a request leaves unchanged, for every request; only a response may be added to the record.
That H.dStat, H.dWord and H.dCursor keep their values outside a DISPATCH is log entry 28 (DESIGN CHOICE): the spec gives
them no meaning there. The single step that accepts DISPATCH and admits its GET is log entry 8, the event valid indication
log entry 26. -/
def Obligations.ServingARequestKeepsTheRest : Prop :=
  ∀ (i : Instr) (s t : State), exec i s = .next t →
    t.baudPrescaler = s.baudPrescaler ∧ t.presc = s.presc ∧ t.deepSleep = s.deepSleep ∧ t.sel = s.sel ∧ t.rst = s.rst ∧
    t.txdr = s.txdr ∧ t.evt = s.evt ∧ t.evtValid = s.evtValid ∧ t.dStat = s.dStat ∧ t.dWord = s.dWord ∧
    t.dCursor = s.dCursor ∧ t.refused = s.refused ∧ t.par = s.par ∧ t.port = s.port ∧ t.asking = s.asking ∧
    t.env = s.env ∧ t.drawn = s.drawn ∧ (i ≠ .deinit → t.busEnabled = s.busEnabled) ∧
    (i ≠ .dispatch → t.dActive = s.dActive ∧ t.dClient = s.dClient) ∧
    (t.trace = s.trace ∨ ∃ x, t.trace = .respond s.asking x :: s.trace)

/-! ## The bounded wait and the bus primitive -/

/-- R100: if the predicate holds first at sample j, the wait ends after exactly j samples and records nothing. -/
def Obligations.WaitEndsAtTheFirstSampleThatHolds : Prop :=
  ∀ (s : State) (k : WaitPoint) (j : Nat), s.seq = .wait k → k ≠ .ack → s.port = [] → j < s.count →
    (∀ m, m < j → k.holds (s.inputsAt m) = false) → k.holds (s.inputsAt j) = true →
    ∃ u, RunsTo (j + 1) s u ∧ u.seq ≠ .wait k ∧ u.errorCode = s.errorCode ∧ u.callFailed = s.callFailed ∧
      u.drawn = s.drawn + (j + 1) ∧
      u.trace = ((List.range (j + 1)).map fun m => Event.sample (s.inputsAt m)).reverse ++ s.trace

/-- R100, R104: if the predicate holds at none of the samples the wait has left, it stays in the wait for exactly that many
samples and has recorded nothing; the next step records the fault and the operation goes on. -/
def Obligations.WaitTimesOutAfterExactlyItsBudget : Prop :=
  ∀ (s : State) (k : WaitPoint) (f : FaultKind), s.seq = .wait k → k.faultKind = some f → s.port = [] →
    (∀ m, m < s.count → k.holds (s.inputsAt m) = false) →
    (∀ n, n ≤ s.count → ∃ u, RunsTo n s u ∧ u.seq = .wait k ∧ u.count = s.count - n ∧ u.errorCode = s.errorCode ∧
      u.callFailed = s.callFailed ∧
      u.trace = ((List.range n).map fun m => Event.sample (s.inputsAt m)).reverse ++ s.trace) ∧
    ∃ v, RunsTo (s.count + 1) s v ∧ v.seq ≠ .wait k ∧ v.callFailed = true ∧
      v.errorCode = (match f with | .timeout => 1 | .rfBusyTimeout => 2) ∧
      v.trace = ((List.range s.count).map fun m => Event.sample (s.inputsAt m)).reverse ++ s.trace

/-- R102, R103, R247: the two link accesses of an exchange, whole. LinkWrite drives TXDR with the position's byte and the
RXNE wait follows; LinkRead keeps the byte at an R position, discards it at a T position, records no fault, and goes on
with the next position or the deselection. The draw is log entry 2, and that H.count keeps its value outside a wait log
entry 28: the model's choices. -/
def Obligations.ExchangeWritesThenReads : Prop :=
  ∀ (s : State) (o : Owner) (j : Nat),
    (s.seq = .op (.txn o (.linkWrite j)) → advance s =
      { s with
        txdr := sentByte s j, trace := .linkWrite (sentByte s j) :: s.trace
        seq := .wait (.txn o (.rxne j)), count := s.par.busBudget }) ∧
    (s.seq = .op (.txn o (.linkRead j)) → advance s =
      { s with
        rxBuf := if receives s.op = true ∧ (frameHeader s).length ≤ j then s.rxBuf ++ [(s.inputsAt 0).rxdr] else s.rxBuf
        env := s.env.tail, drawn := s.drawn + 1, trace := .linkRead (s.inputsAt 0).rxdr :: s.trace
        seq := if j + 1 < frameLength s then .wait (.txn o (.txe (j + 1))) else .op (.txn o .frameDesel)
        count := if j + 1 < frameLength s then s.par.busBudget else s.count })

/-- R107: the wake toggle is SEL up, Hold(WAKE_HOLD), SEL down, and then the gate; it writes H.SEL alone. That H.count is
not touched before the gate loads it is log entry 28. -/
def Obligations.WakeToggleIsSelectHoldDeselect : Prop :=
  ∀ (s : State) (o : Owner), s.seq = .op (.txn o .wakeSel) → s.port = [] →
    RunsTo 3 s
      { s with
        sel := false, seq := .wait (.txn o .startGate), count := s.par.busyBudget
        trace := .sel false :: .hold s.par.wakeHold :: .sel true :: s.trace }

/-- R130, R109: SETCMD writes H.deepSleep in the step that asserts select, after DeviceReady, and no other transaction
writes it. -/
def Obligations.SetcmdUpdatesDeepSleepBeforeItsFrame : Prop :=
  ∀ (s : State) (o : Owner), s.seq = .op (.txn o .frameSel) →
    (advance s).sel = true ∧ (advance s).trace = .sel true :: s.trace ∧
    (s.op = .setcmd → ((advance s).deepSleep = true ↔ s.cmd = s.par.opcSetSleep ∨ s.cmd = s.par.opcSetRxDutyCycle)) ∧
    (s.op ≠ .setcmd → (advance s).deepSleep = s.deepSleep)

/-- R122, R130, R245: after the frame, select is deasserted, and the gate is skipped if and only if the transaction is
SETCMD with OPC_SET_SLEEP. -/
def Obligations.FinalGateIsSkippedForSleepOnly : Prop :=
  ∀ (s : State) (o : Owner), s.seq = .op (.txn o .frameDesel) →
    (advance s).sel = false ∧ (advance s).trace = .sel false :: s.trace ∧
    (s.op = .setcmd ∧ s.cmd = s.par.opcSetSleep → (advance s).seq = .op (.txn o .release)) ∧
    (¬ (s.op = .setcmd ∧ s.cmd = s.par.opcSetSleep) →
      (advance s).seq = .wait (.txn o .endGate) ∧ (advance s).count = s.par.busyBudget)

/-- R123: the release of a requester's transaction: classification, Ready, lock release, and the response, with the
received bytes for the reading operations; H.errorCode is not written. The model's own in this equation of whole states:
that Ready, the lock's release and the response are one step (log entry 7, DEDUCED); that the response leads back to where
the dispatcher stood (log entries 9 and 17, DESIGN CHOICE); that H.op is DISPATCH again where the transaction was
presented during one, and keeps its value in Idle (R33; log entry 24, DEDUCED); and that H.cmd, H.addr, H.off, H.cnt,
H.txBuf, H.rxBuf, H.callFailed and H.count keep their values after the response, as do the dispatcher's registers outside
a DISPATCH, where the spec gives them none (log entry 28, DESIGN CHOICE). -/
def Obligations.ReleaseClassifiesAndResponds : Prop :=
  ∀ (s : State) (back : Resume), s.seq = .op (.txn (.requester back) .release) →
    advance s =
      { s with
        state := .ready, lockHeld := false, seq := back.seq, op := if back = .idle then s.op else .dispatch
        trace := .respond s.client (.result (if s.callFailed then .error else .ok)
          (if s.op = .rdregs ∨ s.op = .getcmd ∨ s.op = .rdbuf ∨ s.op = .rdreg then s.rxBuf else [])) :: s.trace }

/-! ## Frames -/

/-- R78, R52: after its admission, the bytes a transaction will send at the positions of its frame are those of the frame
table, and the positions whose byte is kept are its R positions. -/
def Obligations.FramePositionsFollowTheTable : Prop :=
  ∀ (i : Instr) (s t : State), i.isTransaction = true → i.wellFormed s.par.prescalerCodes = true →
    s.state = .ready → s.lockHeld = false → exec i s = .next t →
    frameLength t = (i.frame s.par).length ∧
    ∀ j x, (i.frame s.par)[j]? = some x → sentByte t j = x.sent ∧ keepsByte t j = x.isReceive

/-- R79: frame lengths. -/
def Obligations.FrameLengths : Prop :=
  ∀ (p : Params) (a n : BitVec 16) (b : Byte) (bs : List Byte),
    (Instr.frame p (.setcmd b bs)).length = 1 + bs.length ∧ (Instr.frame p (.getcmd b n)).length = 1 + n.toNat ∧
    (Instr.frame p (.wrregs a bs)).length = 3 + bs.length ∧ (Instr.frame p (.wrreg a b)).length = 3 + 1 ∧
    (Instr.frame p (.rdregs a n)).length = 4 + n.toNat ∧ (Instr.frame p (.rdreg a)).length = 4 + 1 ∧
    (Instr.frame p (.wrbuf b bs)).length = 2 + bs.length ∧ (Instr.frame p (.rdbuf b n)).length = 3 + n.toNat

/-! ## Whole operations -/

/-- R122, R123, R78, R61: Every transaction presented to a Ready, unlocked controller is admitted and runs to its
response, whatever the environment draws: the wire shows the wake toggle if H.deepSleep was 1, then exactly the frame of
the request; one byte is read per position; the response carries the bytes read at the R positions and is Error exactly if
a fault was recorded; the state is Ready again and the lock free. No other request arrives meanwhile (the port is empty).
The places of the dispatcher outside AwaitAck at which it may be presented are log entry 9's. That H.callFailed can still
be read after the response is log entry 28 (DESIGN CHOICE): the statement uses it there to say which of Ok and Error was
answered. -/
def Obligations.EveryTransactionRunsItsFrameAndResponds : Prop :=
  ∀ (i : Instr) (s : State), i.isTransaction = true → i.wellFormed s.par.prescalerCodes = true →
    s.state = .ready → s.lockHeld = false → s.seq.inOperation = false → s.port = [] →
    ∃ t n u new, exec i s = .next t ∧ RunsTo n t u ∧ u.trace = new ++ s.trace ∧
      u.seq = s.seq ∧ u.state = .ready ∧ u.lockHeld = false ∧ u.sel = false ∧
      u.deepSleep = i.deepSleepAfter s.par s.deepSleep ∧
      wireOf new = wakeOnWire s.deepSleep ++ frameOnWire (i.frame s.par) ∧
      (bytesReadOf new).length = (i.frame s.par).length ∧
      new.head? = some (.respond s.asking (.result (if u.callFailed then .error else .ok)
        (((i.frame s.par).zip (bytesReadOf new)).filterMap fun x => if x.1.isReceive then some x.2 else none))) ∧
      (u.callFailed = true → u.errorCode = 1 ∨ u.errorCode = 2) ∧
      (u.callFailed = false → u.errorCode = if s.par.errPolicy = .perOperation then 0 else s.errorCode)

/-- R138: the bound. With t positions and g gates, the transaction takes at most g·BUSY_BUDGET + 2·t·BUS_BUDGET samples,
2·t link accesses, two or four SetSel steps and at most one Hold, and it ends. The step bound counts besides these one
RecordFault per wait and the release. The places of the dispatcher outside AwaitAck at which the transaction may be
presented are log entry 9's. That a RecordFault is a step of its own and the release one step is log entry 7. -/
def Obligations.EveryTransactionIsBounded : Prop :=
  ∀ (i : Instr) (s : State), i.isTransaction = true → i.wellFormed s.par.prescalerCodes = true →
    s.state = .ready → s.lockHeld = false → s.seq.inOperation = false → s.port = [] →
    let t := (i.frame s.par).length
    let g := i.gates s.par
    ∃ t0 n u new, exec i s = .next t0 ∧ RunsTo n t0 u ∧ u.trace = new ++ s.trace ∧
      (∃ r, new.head? = some (.respond s.asking r)) ∧
      new.countP Event.isSample ≤ g * s.par.busyBudget + t * 2 * s.par.busBudget ∧
      new.countP Event.isLinkAccess = 2 * t ∧
      new.countP Event.isSel = (if s.deepSleep then 4 else 2) ∧
      new.countP Event.isHold ≤ 1 ∧
      n ≤ g * (s.par.busyBudget + 1) + t * (2 * (s.par.busBudget + 1) + 2) + 6

/-- 95_test_vectors.md section 3.3, from R100 to R138: in an environment whose flags are ready at every sample and with no
budget 0, every transaction is answered Ok after exactly one sample per gate and two per position (the places of the
dispatcher outside AwaitAck are log entry 9's). -/
def Obligations.ReadyEnvironmentAnswersOk : Prop :=
  ∀ (i : Instr) (s : State), i.isTransaction = true → i.wellFormed s.par.prescalerCodes = true →
    s.state = .ready → s.lockHeld = false → s.seq.inOperation = false → s.port = [] →
    0 < s.par.busBudget → 0 < s.par.busyBudget →
    (∀ m, m < i.gates s.par + 3 * (i.frame s.par).length →
      (s.inputsAt m).txe = true ∧ (s.inputsAt m).rxne = true ∧ ((s.inputsAt m).busy && (s.inputsAt m).busyms) = false) →
    ∃ t n u new data, exec i s = .next t ∧ RunsTo n t u ∧ u.trace = new ++ s.trace ∧
      new.head? = some (.respond s.asking (.result .ok data)) ∧
      new.countP Event.isSample = i.gates s.par + 2 * (i.frame s.par).length

/-- R122, R22, R30: what a transaction leaves unchanged from its admission to its release, a requester's or one of
DISPATCH's two (whose releases have statements of their own): everything but the Handle's state, lock, error code and
deepSleep, SEL, TXDR, H.rxBuf, H.callFailed, H.count and the record; H.op changes only at a response that leads back into
a DISPATCH, which is then the operation in progress (R33; log entry 24, DEDUCED). The step of a requester's release is
among them, so that H.cmd, H.addr, H.off, H.cnt and H.txBuf keep their values after the response is log entry 28 (DESIGN
CHOICE), as it is that H.dStat, H.dWord and H.dCursor keep theirs outside a DISPATCH: the spec gives these registers no
value there. That H.op keeps its value in Idle is log entry 24, and the places of the dispatcher to which a response leads
log entry 9. -/
def Obligations.TransactionStepsKeepTheRest : Prop :=
  ∀ s t : State, (∃ o j, s.seq.txnAt (frameLength s) = some (o, j)) →
    s.seq ≠ .op (.txn .dispatchGet .release) → s.seq ≠ .op (.txn .dispatchClr .release) → s.port = [] → step s = .next t →
    t.baudPrescaler = s.baudPrescaler ∧ t.presc = s.presc ∧ t.busEnabled = s.busEnabled ∧ t.rst = s.rst ∧
    t.evt = s.evt ∧ t.evtValid = s.evtValid ∧ t.dActive = s.dActive ∧ t.dStat = s.dStat ∧ t.dWord = s.dWord ∧
    t.dCursor = s.dCursor ∧ t.refused = s.refused ∧ t.par = s.par ∧ t.port = s.port ∧ t.client = s.client ∧
    t.dClient = s.dClient ∧ t.asking = s.asking ∧ t.cmd = s.cmd ∧ t.addr = s.addr ∧ t.off = s.off ∧
    t.cnt = s.cnt ∧ t.txBuf = s.txBuf ∧ t.op = (if t.seq.inOperation = true ∨ t.seq = .idle then s.op else .dispatch) ∧
    (s.op ≠ .setcmd → t.deepSleep = s.deepSleep)

/-- R136, R137, R91: a single-byte wrapper behaves as its N-byte form with count 1: from the same state the two admissions
differ in H.op alone, and every later step of the transaction does the same to both: the two next states differ in H.op at
most, and not there after a response that leads back into a DISPATCH. H.op after the response is log entry 24. -/
def Obligations.WrappersBehaveAsTheirLongForms : Prop :=
  (∀ (a : BitVec 16) (b : Byte) (s t : State), s.state = .ready → s.lockHeld = false → exec (.wrreg a b) s = .next t →
    exec (.wrregs a [b]) s = .next { t with op := .wrregs }) ∧
  (∀ (a : BitVec 16) (s t : State), s.state = .ready → s.lockHeld = false → exec (.rdreg a) s = .next t →
    exec (.rdregs a 1) s = .next { t with op := .rdregs }) ∧
  (∀ (s : State) (back : Resume), (∃ j, s.seq.txnAt (frameLength s) = some (.requester back, j)) →
    (s.op = .wrreg → advance { s with op := .wrregs } =
      { advance s with op := if (advance s).op = .wrreg then .wrregs else (advance s).op }) ∧
    (s.op = .rdreg → advance { s with op := .rdregs } =
      { advance s with op := if (advance s).op = .rdreg then .rdregs else (advance s).op }))

/-! ## Lifecycle -/

/-- R181, R184, R240 (b), R33: the acceptance of INIT and of DEINIT, whole: what it writes, and that nothing else changes.
The model's own in it: that the assignments at the head of INIT and DEINIT (H.callFailed := 0 and, for DEINIT,
H.busEnabled := 0) belong to the acceptance step (log entry 7, DEDUCED); H.op as the OPSEL of the operation in progress
(log entry 24, DEDUCED); the requester's tag (log entry 14); INIT's operand, its previous lifecycle state and the place to
which the response leads, held in the sequencer's point (log entry 17, DESIGN CHOICE); and that the transient registers of
operations that have ended keep their values (log entry 28, DESIGN CHOICE). -/
def Obligations.LifecycleRequestsAreAccepted : Prop :=
  ∀ (s : State) (c : BitVec 3), s.seq = .idle ∨ s.seq = .wait .ack →
    let accepted (o : OpSel) (k : Point) : State :=
      { s with state := .busy, callFailed := false, op := o, client := s.asking, seq := .op k }
    let job : InitJob := { code := c, prev := s.state, back := s.seq.resume }
    (s.state = .uninitializedAfterReset → exec (.init c) s = .next (accepted .init (.init job .setRst))) ∧
    (s.state = .uninitializedAfterRFReady → exec (.init c) s = .next (accepted .init (.init job .setSel))) ∧
    exec .deinit s = .next { accepted .deinit (.deinit s.seq.resume .setRst) with busEnabled := false }

/-- R181, R184, R22, R30, R33, R34: what the steps of INIT and DEINIT leave unchanged. H.op changes only at a response
that leads back into a DISPATCH (log entry 24). That the registers of a transaction and those of the dispatcher keep their
values while their own operation is not in progress is log entry 28 (DESIGN CHOICE): the spec gives them none there. -/
def Obligations.LifecycleStepsKeepTheRest : Prop :=
  ∀ s t : State, s.port = [] → step s = .next t →
    let initRuns : Prop := ∃ j, s.seq.initJob = some j
    let deinitRuns : Prop := ∃ b, s.seq = .wait (.deinitReset b) ∨ ∃ p, s.seq = .op (.deinit b p)
    (initRuns ∨ deinitRuns →
      t.txdr = s.txdr ∧ t.evt = s.evt ∧ t.evtValid = s.evtValid ∧ t.cmd = s.cmd ∧ t.addr = s.addr ∧
      t.op = (if t.seq.inOperation = true ∨ t.seq = .idle then s.op else .dispatch) ∧ t.off = s.off ∧ t.cnt = s.cnt ∧ t.txBuf = s.txBuf ∧ t.rxBuf = s.rxBuf ∧ t.dActive = s.dActive ∧ t.dStat = s.dStat ∧
      t.dWord = s.dWord ∧ t.dCursor = s.dCursor ∧ t.refused = s.refused ∧ t.par = s.par ∧ t.port = s.port ∧
      t.asking = s.asking ∧ t.client = s.client ∧ t.dClient = s.dClient) ∧
    (deinitRuns → t.deepSleep = s.deepSleep ∧ t.baudPrescaler = s.baudPrescaler ∧ t.presc = s.presc ∧
      t.busEnabled = s.busEnabled)

/-- R181: INIT, whole: accepted when quiet and uninitialized, it ends after a bounded number of steps. From
UninitializedAfterReset it deasserts RST and waits for RSTST = 0, failing with Timeout exactly if no sample shows it; from
UninitializedAfterRFReady it cannot fail. On success, and on failure under INIT_FAIL_STATE = Ready, the bus is configured;
else the state before INIT is restored. Stated whatever the environment draws, with no other request meanwhile. The count
of steps rests on log entry 7. -/
def Obligations.InitRunsToItsResponse : Prop :=
  ∀ (c : BitVec 3) (s : State), s.seq.quiet = true →
    (s.state = .uninitializedAfterReset ∨ s.state = .uninitializedAfterRFReady) → s.port = [] →
    let failed : Prop := s.state = .uninitializedAfterReset ∧ ∀ m, m < s.par.resetBudget → (s.inputsAt m).rstst = true
    let configured : Prop := ¬ failed ∨ s.par.initFailState = .ready
    ∃ t n u new, exec (.init c) s = .next t ∧ t.state = .busy ∧ RunsTo n t u ∧ n ≤ s.par.resetBudget + 4 ∧
      u.trace = new ++ s.trace ∧ u.seq = s.seq ∧
      (failed → new.head? = some (.respond s.asking (.result .error [])) ∧ u.errorCode = 1) ∧
      (¬ failed → new.head? = some (.respond s.asking (.result .ok [])) ∧ u.errorCode = 0) ∧
      (configured → u.state = .ready ∧ u.baudPrescaler = c ∧ u.presc = c ∧ u.busEnabled = true ∧ u.deepSleep = true ∧
        u.lockHeld = false ∧ u.sel = false) ∧
      (¬ configured → u.state = s.state ∧ u.baudPrescaler = s.baudPrescaler ∧ u.presc = s.presc ∧
        u.busEnabled = s.busEnabled ∧ u.deepSleep = s.deepSleep ∧ u.lockHeld = s.lockHeld ∧ u.sel = s.sel) ∧
      u.rst = (if s.state = .uninitializedAfterReset then false else s.rst)

/-- R184: DEINIT, whole: accepted when quiet, from any lifecycle state, it ends uninitialized with RST asserted, the bus
disabled, the lock free and errorCode 0x0, after a bounded number of steps; its result is Error exactly if no sample shows
RSTST = 1; deepSleep and baudPrescaler are not written. The count of steps rests on log entry 7. -/
def Obligations.DeinitRunsToItsResponse : Prop :=
  ∀ s : State, s.seq.quiet = true → s.port = [] →
    ∃ t n u new, exec .deinit s = .next t ∧ t.state = .busy ∧ RunsTo n t u ∧ n ≤ s.par.resetBudget + 4 ∧
      u.trace = new ++ s.trace ∧ u.seq = s.seq ∧ u.state = .uninitializedAfterReset ∧ u.rst = true ∧
      u.busEnabled = false ∧ u.lockHeld = false ∧ u.errorCode = 0 ∧ u.sel = false ∧ u.deepSleep = s.deepSleep ∧
      u.baudPrescaler = s.baudPrescaler ∧ u.presc = s.presc ∧
      ((∀ m, m < s.par.resetBudget → (s.inputsAt m).rstst = false) →
        new.head? = some (.respond s.asking (.result .error []))) ∧
      (¬ (∀ m, m < s.par.resetBudget → (s.inputsAt m).rstst = false) →
        new.head? = some (.respond s.asking (.result .ok [])))

/-- R185: DEINIT and then INIT, with a reset wait that succeeds, restore Ready, errorCode 0x0 and a free lock; and the
controller is quiet again, so the cycle can be repeated. -/
def Obligations.DeinitThenInitRestoresReady : Prop :=
  ∀ (c : BitVec 3) (s : State), s.seq.quiet = true → s.port = [] →
    ∃ t1 n1 u1, exec .deinit s = .next t1 ∧ RunsTo n1 t1 u1 ∧ u1.state = .uninitializedAfterReset ∧
      ((∃ m, m < u1.par.resetBudget ∧ (u1.inputsAt m).rstst = false) →
        ∃ t2 n2 u2, exec (.init c) u1 = .next t2 ∧ RunsTo n2 t2 u2 ∧ u2.state = .ready ∧ u2.errorCode = 0 ∧
          u2.lockHeld = false ∧ u2.seq.quiet = true ∧ u2.port = [])

/-- R240 (a), (b) (log entry 11): a request that breaks a host duty has no move, and one that keeps it is accepted. -/
def Obligations.HostDutiesDecideAcceptance : Prop :=
  ∀ (s : State) (c : BitVec 3),
    (exec .dispatch s = .fault .dispatchDuty ↔ ¬ (s.state = .ready ∧ s.lockHeld = false ∧ s.dActive = false)) ∧
    ((∃ t, exec .dispatch s = .next t) ↔ s.state = .ready ∧ s.lockHeld = false ∧ s.dActive = false) ∧
    (exec (.init c) s = .fault .initDuty ↔ ¬ ((s.seq = .idle ∨ s.seq = .wait .ack) ∧
      (s.state = .uninitializedAfterReset ∨ s.state = .uninitializedAfterRFReady))) ∧
    ((∃ t, exec (.init c) s = .next t) ↔ (s.seq = .idle ∨ s.seq = .wait .ack) ∧
      (s.state = .uninitializedAfterReset ∨ s.state = .uninitializedAfterRFReady)) ∧
    (exec .deinit s = .fault .deinitDuty ↔ ¬ (s.seq = .idle ∨ s.seq = .wait .ack)) ∧
    ((∃ t, exec .deinit s = .next t) ↔ s.seq = .idle ∨ s.seq = .wait .ack)

/-- R13, R240 (a), (b), R200 (log entry 11 for the stop): nothing stops the model but a broken host duty. Every request but
DISPATCH, INIT and DEINIT answers a next state, and so does every step without a due request; no request and no step is ever
refused; and where a step stops, the due request decodes to DISPATCH, INIT or DEINIT and its duty is broken in that state.
That a step at a due refused descriptor answers a next state, and so that no step is refused and nothing else stops, is log
entry 12 (DEDUCED): the run goes on with M.refused set, where the spec gives such a descriptor no meaning (R13, R76). -/
def Obligations.OnlyDutyViolationsStop : Prop :=
  (∀ (i : Instr) (s : State), (i ≠ .dispatch → (∀ c, i ≠ .init c) → i ≠ .deinit → ∃ t, exec i s = .next t) ∧
    ∀ m, exec i s ≠ .refused m) ∧
  ∀ s : State, (∀ m, step s ≠ .refused m) ∧ ((∀ r ∈ s.port.head?, r.delay ≠ 0) → ∃ t, step s = .next t) ∧
    ∀ f, step s = .fault f → ∃ r rest i,
      s.port = r :: rest ∧ r.delay = 0 ∧ decode s.par.prescalerCodes r.desc r.payload = .ok i ∧
      ((i = .dispatch ∧ f = .dispatchDuty ∧ ¬ (s.state = .ready ∧ s.lockHeld = false ∧ s.dActive = false)) ∨
       (∃ c, i = .init c ∧ f = .initDuty ∧ ¬ ((s.seq = .idle ∨ s.seq = .wait .ack) ∧
          (s.state = .uninitializedAfterReset ∨ s.state = .uninitializedAfterRFReady))) ∨
       (i = .deinit ∧ f = .deinitDuty ∧ ¬ (s.seq = .idle ∨ s.seq = .wait .ack)))

/-! ## The dispatcher -/

/-- R161, R215: accepting a DISPATCH sets H.dActive and admits the GET of three bytes with OPC_GET_IRQSTATUS; nothing else
changes. The model's own in it: the single step for the acceptance and the admission (log entry 8, DEDUCED), the
assignments glued to it (log entry 7) and the toggle decided here (log entry 22), the operand registers the GET does not
use (log entry 13), the requester's tag (log entry 14), and that H.dStat, H.dWord and H.dCursor keep their values until
the DISPATCH writes them, as H.count does until a wait loads it (log entry 28, DESIGN CHOICE). -/
def Obligations.DispatchIsAcceptedWithItsGet : Prop :=
  ∀ s : State, s.state = .ready → s.lockHeld = false → s.dActive = false →
    exec .dispatch s = .next
      { s with
        dActive := true, dClient := s.asking, lockHeld := true, state := .busy, callFailed := false
        errorCode := if s.par.errPolicy = .perOperation then 0 else s.errorCode
        op := .getcmd, cmd := s.par.opcGetIrqStatus, cnt := 3, txBuf := [], rxBuf := []
        seq := if s.deepSleep then .op (.txn .dispatchGet .wakeSel) else .wait (.txn .dispatchGet .startGate)
        count := if s.deepSleep then s.count else s.par.busyBudget }

/-- R162, R163, R164: the GET's release and the CLR's admission are one step, which leaves no gap in which the lock is
free; the CLR sends exactly the two status bytes as read, and the status word is their big-endian word. No response goes
to the request port. The model's own in it: the assignments glued to the step (log entry 7) and the toggle decided here
(log entry 22), the operand registers the CLR does not use (log entry 13), and that H.dCursor keeps its value until the
tests start and H.count until a wait loads it (log entry 28, DESIGN CHOICE). -/
def Obligations.ClearIsAdmittedInTheStepThatReleasesTheGet : Prop :=
  ∀ (s : State) (b0 b1 b2 : Byte), s.seq = .op (.txn .dispatchGet .release) → s.rxBuf = [b0, b1, b2] →
    advance s =
      { s with
        lockHeld := true, state := .busy, callFailed := false
        errorCode := if s.par.errPolicy = .perOperation then 0 else s.errorCode
        dStat := { s0 := b0, s1 := b1, s2 := b2 }, dWord := b1 ++ b2
        op := .setcmd, cmd := s.par.opcClrIrqStatus, cnt := 2, txBuf := [b1, b2], rxBuf := []
        seq := if s.deepSleep then .op (.txn .dispatchClr .wakeSel) else .wait (.txn .dispatchClr .startGate)
        count := if s.deepSleep then s.count else s.par.busyBudget }

/-- R161, R216, R33: the release of the CLR frees the lock, restores Ready and starts the tests at entry 0; it sends no
response to the request port and changes nothing else. The model's own in it: that these assignments are one step (log
entry 7, DEDUCED); that DISPATCH is the operation in progress again, H.op (log entry 24, DEDUCED); and that the CLR's
transient registers (H.cmd, H.addr, H.off, H.cnt, H.txBuf, H.rxBuf, H.callFailed and H.count) keep their values after its
release, where the spec gives them none (log entry 28, DESIGN CHOICE). -/
def Obligations.ReleaseOfTheClearStartsTheTests : Prop :=
  ∀ s : State, s.seq = .op (.txn .dispatchClr .release) →
    advance s = { s with state := .ready, lockHeld := false, dCursor := 0, op := .dispatch, seq := .op (.disp .test) }

/-- R165, R166, R84, R85 (the codes are R85's, the spec's own numbers): what entry j of the order presents for a status word: TxDone to CrcError, CadDone split by CadDetected,
RxTxTimeout, FreqHop, each exactly if its bit is set. -/
def Obligations.ReactionsFollowTheOrder : Prop :=
  ∀ (b : IrqBits) (w : BitVec 16),
    let bit (n : BitVec 4) : Bool := w.getLsbD n.toNat
    (List.range 10).map (reaction b w) =
      [if bit b.txDone then some 0 else none, if bit b.rxDone then some 1 else none,
       if bit b.preambleDetected then some 2 else none, if bit b.syncWordValid then some 3 else none,
       if bit b.headerValid then some 4 else none, if bit b.headerError then some 5 else none,
       if bit b.crcError then some 6 else none,
       if bit b.cadDone then (if bit b.cadDetected then some 7 else some 8) else none,
       if bit b.rxTxTimeout then some 9 else none, if bit b.freqHop then some 10 else none]

/-- R168: each event code is presented at most once for a status word, in increasing order, and at most one of 7 and 8. -/
def Obligations.EachEventAtMostOnceInOrder : Prop :=
  ∀ (b : IrqBits) (w : BitVec 16),
    ((List.range 10).filterMap (reaction b w)).Pairwise (fun x y => x.toNat < y.toNat) ∧
    ¬ (7 ∈ (List.range 10).filterMap (reaction b w) ∧ 8 ∈ (List.range 10).filterMap (reaction b w))

/-- R166: testing an entry presents its event and waits, or goes on; an acknowledgement drops the valid indication and
goes on; without one the wait goes on and nothing but the draw is consumed; Done responds and ends the DISPATCH. The
model's own in these equations of whole states: one test per step (log entry 10, DESIGN CHOICE), the look at EVT_ACK (log
entry 16, DESIGN CHOICE) as a draw (log entry 2), the event valid indication (log entry 26, DEDUCED), that the end of the
DISPATCH belongs to the step of its Respond (log entry 7, DEDUCED), that H.op keeps its value in Idle (log entry 24,
DEDUCED), and that H.dStat, H.dWord and H.dCursor keep their values after Done, and the registers of the CLR theirs after
its release, where the spec gives them no meaning (R34, R33; log entry 28, DESIGN CHOICE). -/
def Obligations.ReactionStepsEmitAndAwait : Prop :=
  ∀ s : State,
    (s.seq = .op (.disp .test) → ∀ e, reaction s.par.irq s.dWord s.dCursor.toNat = some e →
      advance s = { s with evt := e, evtValid := true, seq := .wait .ack, trace := .emit e :: s.trace }) ∧
    (s.seq = .op (.disp .test) → reaction s.par.irq s.dWord s.dCursor.toNat = none → s.dCursor.toNat < 9 →
      advance s = { s with dCursor := s.dCursor + 1 }) ∧
    (s.seq = .op (.disp .test) → reaction s.par.irq s.dWord s.dCursor.toNat = none → s.dCursor.toNat = 9 →
      advance s = { s with seq := .op (.disp .done) }) ∧
    (s.seq = .wait .ack → (s.inputsAt 0).evtAck = false → advance s = { s with env := s.env.tail, drawn := s.drawn + 1 }) ∧
    (s.seq = .wait .ack → (s.inputsAt 0).evtAck = true → s.dCursor.toNat < 9 → advance s =
      { s with
        env := s.env.tail, drawn := s.drawn + 1, evtValid := false, dCursor := s.dCursor + 1, seq := .op (.disp .test)
        trace := .ack :: s.trace }) ∧
    (s.seq = .wait .ack → (s.inputsAt 0).evtAck = true → s.dCursor.toNat = 9 → advance s =
      { s with
        env := s.env.tail, drawn := s.drawn + 1, evtValid := false, seq := .op (.disp .done), trace := .ack :: s.trace }) ∧
    (s.seq = .op (.disp .done) → advance s =
      { s with dActive := false, seq := .idle, trace := .respond s.dClient .done :: s.trace })

/-- R161, R163, R164, R166, R170, R210: A DISPATCH presented as its duty asks, whose every event is acknowledged at its
first look, ends with Done whatever else the environment draws and whatever faults are recorded: the wire shows the GET frame
and then the CLR frame with exactly the two status bytes the GET read, and after them (the record is an early part with the
frames and no event, then a late part with the events and nothing on the wire) each set entry of the order is presented once,
in order. That H.dStat and H.dWord still hold the bytes read and their word at the end is log entry 28 (DESIGN CHOICE): the
spec gives them no meaning after the DISPATCH. -/
def Obligations.DispatchClearsWhatItReadAndReactsInOrder : Prop :=
  ∀ s : State, s.state = .ready → s.lockHeld = false → s.dActive = false → s.evtValid = false → s.seq = .idle →
    s.port = [] → s.par.opcClrIrqStatus ≠ s.par.opcSetSleep →
    (∀ m, m < 4 * s.par.busyBudget + 14 * s.par.busBudget + 17 → (s.inputsAt m).evtAck = true) →
    ∃ t n u new early late s0 s1 s2, exec .dispatch s = .next t ∧ RunsTo n t u ∧ u.trace = new ++ s.trace ∧
      new = late ++ early ∧ emittedOf early = [] ∧ wireOf late = [] ∧ u.seq = .idle ∧
      u.dActive = false ∧ u.state = .ready ∧ u.lockHeld = false ∧ u.evtValid = false ∧
      u.dStat = { s0 := s0, s1 := s1, s2 := s2 } ∧ u.dWord = s1 ++ s2 ∧
      wireOf new =
        wakeOnWire s.deepSleep ++ frameOnWire (Instr.frame s.par (.getcmd s.par.opcGetIrqStatus 3)) ++
        wakeOnWire s.deepSleep ++ frameOnWire (Instr.frame s.par (.setcmd s.par.opcClrIrqStatus [s1, s2])) ∧
      (∃ x0 x1 x2 x3, bytesReadOf new = [x0, s0, s1, s2, x1, x2, x3]) ∧
      emittedOf new = (List.range 10).filterMap (reaction s.par.irq (s1 ++ s2)) ∧
      new.head? = some (.respond s.asking .done) ∧
      (u.deepSleep = true ↔ s.par.opcClrIrqStatus = s.par.opcSetRxDutyCycle)

/-- R169: a word with no source's bit set, but perhaps CadDetected's, presents nothing, under every bit table; under the
default table 0xFFFF presents 0 to 7, 9 and 10, CadDone alone presents 8, and with CadDetected 7. -/
def Obligations.StatusWordCornerCases : Prop :=
  (∀ (b : IrqBits) (w : BitVec 16),
    (∀ e, e ≠ IrqSource.cadDetected → w.getLsbD (irqBit b e).toNat = false) →
      ∀ j, reaction b w j = none) ∧
  (List.range 10).filterMap (reaction Config.irqBits 0xFFFF) = [0, 1, 2, 3, 4, 5, 6, 7, 9, 10] ∧
  (List.range 10).filterMap (reaction Config.irqBits 0x0080) = [8] ∧
  (List.range 10).filterMap (reaction Config.irqBits 0x0180) = [7]

/-- R167: a transaction admitted during a reaction does not change the status word, the cursor or the event, and the
dispatcher goes on from where it stood: its response leads back to AwaitAck, and H.op is DISPATCH again (log entry 24). -/
def Obligations.ReactionRequestsReturnToAwaitAck : Prop :=
  ∀ (i : Instr) (s : State), i.isTransaction = true → i.wellFormed s.par.prescalerCodes = true →
    s.state = .ready → s.lockHeld = false → s.seq = .wait .ack → s.port = [] →
    ∃ t n u, exec i s = .next t ∧ t.seq ≠ .wait .ack ∧ RunsTo n t u ∧ u.seq = .wait .ack ∧ u.state = .ready ∧
      u.dWord = s.dWord ∧ u.dCursor = s.dCursor ∧ u.dStat = s.dStat ∧ u.evt = s.evt ∧ u.evtValid = s.evtValid ∧
      u.dActive = s.dActive ∧ u.dClient = s.dClient ∧ u.op = .dispatch

/-! ## Invariants of every step -/

/-- HEADLINE. Every step from a coherent state leads to a coherent state: R27 (legal error codes), R29 (the lock is held
exactly inside a transaction), R26 (Busy exactly inside an operation), R34 (dActive exactly inside a DISPATCH), R30 (PRESC
equals baudPrescaler; select asserted exactly inside a frame or a toggle), R100 (count within its budget), R165 (the
cursor is an index of the order). The clause on H.dCursor holds outside a DISPATCH too, which is log entry 28 (at creation
log entry 5): the spec gives the register no meaning there. The event valid indication, up exactly while an event waits,
is log entry 26. -/
def Obligations.EveryStepKeepsCoherence : Prop :=
  ∀ s t : State, s.Coherent → step s = .next t → t.Coherent

/-- R29: the invariant of the lock, by itself: at creation and after every step it is held exactly inside a transaction, and
while it is held no transaction is admitted, so no second one begins. -/
def Obligations.EveryStepKeepsTheLockRule : Prop :=
  (∀ p : Params, (State.create p).lockHeld = (State.create p).seq.inTxn) ∧
  (∀ s t : State, s.lockHeld = s.seq.inTxn → step s = .next t → t.lockHeld = t.seq.inTxn) ∧
  ∀ (i : Instr) (s : State), i.isTransaction = true → s.lockHeld = true →
    exec i s = .next { s with trace := .respond s.asking (.result .busy []) :: s.trace }

/-- R33: every step keeps H.op the OPSEL of the operation in progress (log entry 24) and the relation of the other transient
registers to the place in the frame. -/
def Obligations.EveryStepKeepsTheTransferRule : Prop :=
  ∀ s t : State, s.TransferMatches → step s = .next t → t.TransferMatches

/-- R161, R162, R164, R166: every step keeps what the dispatcher's inner transactions send and what the waiting event is. -/
def Obligations.EveryStepKeepsTheDispatcherRules : Prop :=
  ∀ s t : State, s.InnerMatches → s.EventMatches → step s = .next t → t.InnerMatches ∧ t.EventMatches

/-! ## Rules of the whole machine -/

/-- R28, R235: H.deepSleep changes only in a SETCMD's step before its frame or in INIT's last step. That these writes
belong to the steps of SetSel(1) and of INIT's Respond is log entries 22 and 7. -/
def Obligations.OnlySetcmdAndInitWriteDeepSleep : Prop :=
  ∀ s t : State, step s = .next t → t.deepSleep ≠ s.deepSleep →
    (∃ o, s.seq = .op (.txn o .frameSel) ∧ s.op = .setcmd) ∨ (∃ j, s.seq = .op (.init j .respond) ∧ t.deepSleep = true)

/-- R182, R30: H.baudPrescaler and H.PRESC are written only by INIT's last step, with INIT's code. That the write belongs
to the step of INIT's Respond is log entry 7. -/
def Obligations.OnlyInitWritesThePrescaler : Prop :=
  ∀ s t : State, step s = .next t → (t.baudPrescaler ≠ s.baudPrescaler ∨ t.presc ≠ s.presc) →
    ∃ j, s.seq = .op (.init j .respond) ∧ t.baudPrescaler = j.code ∧ t.presc = j.code

/-- R22, R30: only INIT and DEINIT move the radio's reset line and the bus enable; EVT changes only with an Emit. That the
bus is enabled in the step of INIT's Respond is log entry 7. -/
def Obligations.ResetLineBusEnableAndEventWriters : Prop :=
  ∀ s t : State, step s = .next t →
    (t.rst ≠ s.rst → (∃ j, s.seq = .op (.init j .setRst) ∧ t.rst = false) ∨
      (∃ b, s.seq = .op (.deinit b .setRst) ∧ t.rst = true)) ∧
    (t.busEnabled = true → s.busEnabled = false → ∃ j, s.seq = .op (.init j .respond)) ∧
    (t.evt ≠ s.evt → t.trace = .emit t.evt :: s.trace)

/-- R36: M.refused is set exactly by a step that refuses a descriptor, and no step clears it; and no step changes the
parameters (log entry 1). That a run goes on after a refused descriptor is log entry 12. -/
def Obligations.RefusedMarkIsNeverCleared : Prop :=
  ∀ s t : State, step s = .next t →
    t.par = s.par ∧
    (t.refused = true ↔ s.refused = true ∨
      ∃ r rest e, s.port = r :: rest ∧ r.delay = 0 ∧ decode s.par.prescalerCodes r.desc r.payload = .error e)

/-- R250: the record only grows, by at most one event a step. -/
def Obligations.RecordGrowsByAtMostOneEvent : Prop :=
  ∀ s t : State, step s = .next t → t.trace = s.trace ∨ ∃ e, t.trace = e :: s.trace

/-- R57, R248: while a transaction is in flight no other one begins: a step of a coherent state inside a transaction stays in
the same transaction (its owner, its requester, every operand register and the bytes to send unchanged, and its place in the
frame not behind where it was), or is that transaction's own release, the controller's own step with no request due. The
invariant of the transient registers is a premise: it rules out places past the end of the frame. -/
def Obligations.NoSecondTransactionBeginsWhileTheLockIsHeld : Prop :=
  ∀ (s t : State) (o : Owner) (j : Nat), s.Coherent → s.TransferMatches →
    s.seq.txnAt (frameLength s) = some (o, j) → step s = .next t →
    (∃ j', t.seq.txnAt (frameLength t) = some (o, j') ∧ j ≤ j' ∧ t.client = s.client ∧ t.op = s.op ∧ t.cmd = s.cmd ∧
      t.addr = s.addr ∧ t.off = s.off ∧ t.cnt = s.cnt ∧ t.txBuf = s.txBuf) ∨
      s.seq = .op (.txn o .release) ∧ (∀ r ∈ s.port.head?, r.delay ≠ 0) ∧ t = (advance s).tick

/-- R105: HEADLINE. The controller's behaviour does not depend on H.busEnabled, H.PRESC or H.baudPrescaler: from two states
that differ in these alone, a step stops in both in the same way or leads to two states that differ in these alone. -/
def Obligations.BehaviourDoesNotDependOnTheLinkConfiguration : Prop :=
  ∀ (s : State) (e : Bool) (b p : BitVec 3),
    match step s, step { s with busEnabled := e, baudPrescaler := b, presc := p } with
    | .next t, .next t' => ∃ e' b' p', t' = { t with busEnabled := e', baudPrescaler := b', presc := p' }
    | .fault f, .fault f' => f = f'
    | _, _ => False
end

