-- ==== Sys2Proof/Laws/State.lean ====
section
/-! SUPPORT. One lemma per field per update: what each named operation does to each field of the state. Later proofs cite
these through simp and unfold no record update. -/

namespace Sys2Proof.Machine

variable (s : State)

/-! ### State.log -/

@[simp] theorem State.log_state (e : Event) : (s.log e).state = s.state := rfl
@[simp] theorem State.log_errorCode (e : Event) : (s.log e).errorCode = s.errorCode := rfl
@[simp] theorem State.log_deepSleep (e : Event) : (s.log e).deepSleep = s.deepSleep := rfl
@[simp] theorem State.log_lockHeld (e : Event) : (s.log e).lockHeld = s.lockHeld := rfl
@[simp] theorem State.log_baudPrescaler (e : Event) : (s.log e).baudPrescaler = s.baudPrescaler := rfl
@[simp] theorem State.log_busEnabled (e : Event) : (s.log e).busEnabled = s.busEnabled := rfl
@[simp] theorem State.log_sel (e : Event) : (s.log e).sel = s.sel := rfl
@[simp] theorem State.log_rst (e : Event) : (s.log e).rst = s.rst := rfl
@[simp] theorem State.log_txdr (e : Event) : (s.log e).txdr = s.txdr := rfl
@[simp] theorem State.log_presc (e : Event) : (s.log e).presc = s.presc := rfl
@[simp] theorem State.log_evt (e : Event) : (s.log e).evt = s.evt := rfl
@[simp] theorem State.log_evtValid (e : Event) : (s.log e).evtValid = s.evtValid := rfl
@[simp] theorem State.log_seq (e : Event) : (s.log e).seq = s.seq := rfl
@[simp] theorem State.log_op (e : Event) : (s.log e).op = s.op := rfl
@[simp] theorem State.log_cmd (e : Event) : (s.log e).cmd = s.cmd := rfl
@[simp] theorem State.log_addr (e : Event) : (s.log e).addr = s.addr := rfl
@[simp] theorem State.log_off (e : Event) : (s.log e).off = s.off := rfl
@[simp] theorem State.log_cnt (e : Event) : (s.log e).cnt = s.cnt := rfl
@[simp] theorem State.log_txBuf (e : Event) : (s.log e).txBuf = s.txBuf := rfl
@[simp] theorem State.log_rxBuf (e : Event) : (s.log e).rxBuf = s.rxBuf := rfl
@[simp] theorem State.log_callFailed (e : Event) : (s.log e).callFailed = s.callFailed := rfl
@[simp] theorem State.log_dActive (e : Event) : (s.log e).dActive = s.dActive := rfl
@[simp] theorem State.log_dStat (e : Event) : (s.log e).dStat = s.dStat := rfl
@[simp] theorem State.log_dWord (e : Event) : (s.log e).dWord = s.dWord := rfl
@[simp] theorem State.log_dCursor (e : Event) : (s.log e).dCursor = s.dCursor := rfl
@[simp] theorem State.log_count (e : Event) : (s.log e).count = s.count := rfl
@[simp] theorem State.log_refused (e : Event) : (s.log e).refused = s.refused := rfl
@[simp] theorem State.log_par (e : Event) : (s.log e).par = s.par := rfl
@[simp] theorem State.log_port (e : Event) : (s.log e).port = s.port := rfl
@[simp] theorem State.log_asking (e : Event) : (s.log e).asking = s.asking := rfl
@[simp] theorem State.log_client (e : Event) : (s.log e).client = s.client := rfl
@[simp] theorem State.log_dClient (e : Event) : (s.log e).dClient = s.dClient := rfl
@[simp] theorem State.log_env (e : Event) : (s.log e).env = s.env := rfl
@[simp] theorem State.log_drawn (e : Event) : (s.log e).drawn = s.drawn := rfl
@[simp] theorem State.log_trace (e : Event) : (s.log e).trace = e :: s.trace := rfl

/-! ### State.respond -/

@[simp] theorem State.respond_state (w : Nat) (r : Response) : (s.respond w r).state = s.state := rfl
@[simp] theorem State.respond_errorCode (w : Nat) (r : Response) : (s.respond w r).errorCode = s.errorCode := rfl
@[simp] theorem State.respond_deepSleep (w : Nat) (r : Response) : (s.respond w r).deepSleep = s.deepSleep := rfl
@[simp] theorem State.respond_lockHeld (w : Nat) (r : Response) : (s.respond w r).lockHeld = s.lockHeld := rfl
@[simp] theorem State.respond_baudPrescaler (w : Nat) (r : Response) : (s.respond w r).baudPrescaler = s.baudPrescaler := rfl
@[simp] theorem State.respond_busEnabled (w : Nat) (r : Response) : (s.respond w r).busEnabled = s.busEnabled := rfl
@[simp] theorem State.respond_sel (w : Nat) (r : Response) : (s.respond w r).sel = s.sel := rfl
@[simp] theorem State.respond_rst (w : Nat) (r : Response) : (s.respond w r).rst = s.rst := rfl
@[simp] theorem State.respond_txdr (w : Nat) (r : Response) : (s.respond w r).txdr = s.txdr := rfl
@[simp] theorem State.respond_presc (w : Nat) (r : Response) : (s.respond w r).presc = s.presc := rfl
@[simp] theorem State.respond_evt (w : Nat) (r : Response) : (s.respond w r).evt = s.evt := rfl
@[simp] theorem State.respond_evtValid (w : Nat) (r : Response) : (s.respond w r).evtValid = s.evtValid := rfl
@[simp] theorem State.respond_seq (w : Nat) (r : Response) : (s.respond w r).seq = s.seq := rfl
@[simp] theorem State.respond_op (w : Nat) (r : Response) : (s.respond w r).op = s.op := rfl
@[simp] theorem State.respond_cmd (w : Nat) (r : Response) : (s.respond w r).cmd = s.cmd := rfl
@[simp] theorem State.respond_addr (w : Nat) (r : Response) : (s.respond w r).addr = s.addr := rfl
@[simp] theorem State.respond_off (w : Nat) (r : Response) : (s.respond w r).off = s.off := rfl
@[simp] theorem State.respond_cnt (w : Nat) (r : Response) : (s.respond w r).cnt = s.cnt := rfl
@[simp] theorem State.respond_txBuf (w : Nat) (r : Response) : (s.respond w r).txBuf = s.txBuf := rfl
@[simp] theorem State.respond_rxBuf (w : Nat) (r : Response) : (s.respond w r).rxBuf = s.rxBuf := rfl
@[simp] theorem State.respond_callFailed (w : Nat) (r : Response) : (s.respond w r).callFailed = s.callFailed := rfl
@[simp] theorem State.respond_dActive (w : Nat) (r : Response) : (s.respond w r).dActive = s.dActive := rfl
@[simp] theorem State.respond_dStat (w : Nat) (r : Response) : (s.respond w r).dStat = s.dStat := rfl
@[simp] theorem State.respond_dWord (w : Nat) (r : Response) : (s.respond w r).dWord = s.dWord := rfl
@[simp] theorem State.respond_dCursor (w : Nat) (r : Response) : (s.respond w r).dCursor = s.dCursor := rfl
@[simp] theorem State.respond_count (w : Nat) (r : Response) : (s.respond w r).count = s.count := rfl
@[simp] theorem State.respond_refused (w : Nat) (r : Response) : (s.respond w r).refused = s.refused := rfl
@[simp] theorem State.respond_par (w : Nat) (r : Response) : (s.respond w r).par = s.par := rfl
@[simp] theorem State.respond_port (w : Nat) (r : Response) : (s.respond w r).port = s.port := rfl
@[simp] theorem State.respond_asking (w : Nat) (r : Response) : (s.respond w r).asking = s.asking := rfl
@[simp] theorem State.respond_client (w : Nat) (r : Response) : (s.respond w r).client = s.client := rfl
@[simp] theorem State.respond_dClient (w : Nat) (r : Response) : (s.respond w r).dClient = s.dClient := rfl
@[simp] theorem State.respond_env (w : Nat) (r : Response) : (s.respond w r).env = s.env := rfl
@[simp] theorem State.respond_drawn (w : Nat) (r : Response) : (s.respond w r).drawn = s.drawn := rfl
@[simp] theorem State.respond_trace (w : Nat) (r : Response) : (s.respond w r).trace = .respond w r :: s.trace := rfl

/-! ### State.afterRead -/

@[simp] theorem State.afterRead_state : (s.afterRead).state = s.state := rfl
@[simp] theorem State.afterRead_errorCode : (s.afterRead).errorCode = s.errorCode := rfl
@[simp] theorem State.afterRead_deepSleep : (s.afterRead).deepSleep = s.deepSleep := rfl
@[simp] theorem State.afterRead_lockHeld : (s.afterRead).lockHeld = s.lockHeld := rfl
@[simp] theorem State.afterRead_baudPrescaler : (s.afterRead).baudPrescaler = s.baudPrescaler := rfl
@[simp] theorem State.afterRead_busEnabled : (s.afterRead).busEnabled = s.busEnabled := rfl
@[simp] theorem State.afterRead_sel : (s.afterRead).sel = s.sel := rfl
@[simp] theorem State.afterRead_rst : (s.afterRead).rst = s.rst := rfl
@[simp] theorem State.afterRead_txdr : (s.afterRead).txdr = s.txdr := rfl
@[simp] theorem State.afterRead_presc : (s.afterRead).presc = s.presc := rfl
@[simp] theorem State.afterRead_evt : (s.afterRead).evt = s.evt := rfl
@[simp] theorem State.afterRead_evtValid : (s.afterRead).evtValid = s.evtValid := rfl
@[simp] theorem State.afterRead_seq : (s.afterRead).seq = s.seq := rfl
@[simp] theorem State.afterRead_op : (s.afterRead).op = s.op := rfl
@[simp] theorem State.afterRead_cmd : (s.afterRead).cmd = s.cmd := rfl
@[simp] theorem State.afterRead_addr : (s.afterRead).addr = s.addr := rfl
@[simp] theorem State.afterRead_off : (s.afterRead).off = s.off := rfl
@[simp] theorem State.afterRead_cnt : (s.afterRead).cnt = s.cnt := rfl
@[simp] theorem State.afterRead_txBuf : (s.afterRead).txBuf = s.txBuf := rfl
@[simp] theorem State.afterRead_rxBuf : (s.afterRead).rxBuf = s.rxBuf := rfl
@[simp] theorem State.afterRead_callFailed : (s.afterRead).callFailed = s.callFailed := rfl
@[simp] theorem State.afterRead_dActive : (s.afterRead).dActive = s.dActive := rfl
@[simp] theorem State.afterRead_dStat : (s.afterRead).dStat = s.dStat := rfl
@[simp] theorem State.afterRead_dWord : (s.afterRead).dWord = s.dWord := rfl
@[simp] theorem State.afterRead_dCursor : (s.afterRead).dCursor = s.dCursor := rfl
@[simp] theorem State.afterRead_count : (s.afterRead).count = s.count := rfl
@[simp] theorem State.afterRead_refused : (s.afterRead).refused = s.refused := rfl
@[simp] theorem State.afterRead_par : (s.afterRead).par = s.par := rfl
@[simp] theorem State.afterRead_port : (s.afterRead).port = s.port := rfl
@[simp] theorem State.afterRead_asking : (s.afterRead).asking = s.asking := rfl
@[simp] theorem State.afterRead_client : (s.afterRead).client = s.client := rfl
@[simp] theorem State.afterRead_dClient : (s.afterRead).dClient = s.dClient := rfl
@[simp] theorem State.afterRead_env : (s.afterRead).env = s.env.tail := rfl
@[simp] theorem State.afterRead_drawn : (s.afterRead).drawn = s.drawn + 1 := rfl
@[simp] theorem State.afterRead_trace : (s.afterRead).trace = s.trace := rfl

/-! ### State.linkRead -/

@[simp] theorem State.linkRead_state : (s.linkRead).state = s.state := rfl
@[simp] theorem State.linkRead_errorCode : (s.linkRead).errorCode = s.errorCode := rfl
@[simp] theorem State.linkRead_deepSleep : (s.linkRead).deepSleep = s.deepSleep := rfl
@[simp] theorem State.linkRead_lockHeld : (s.linkRead).lockHeld = s.lockHeld := rfl
@[simp] theorem State.linkRead_baudPrescaler : (s.linkRead).baudPrescaler = s.baudPrescaler := rfl
@[simp] theorem State.linkRead_busEnabled : (s.linkRead).busEnabled = s.busEnabled := rfl
@[simp] theorem State.linkRead_sel : (s.linkRead).sel = s.sel := rfl
@[simp] theorem State.linkRead_rst : (s.linkRead).rst = s.rst := rfl
@[simp] theorem State.linkRead_txdr : (s.linkRead).txdr = s.txdr := rfl
@[simp] theorem State.linkRead_presc : (s.linkRead).presc = s.presc := rfl
@[simp] theorem State.linkRead_evt : (s.linkRead).evt = s.evt := rfl
@[simp] theorem State.linkRead_evtValid : (s.linkRead).evtValid = s.evtValid := rfl
@[simp] theorem State.linkRead_seq : (s.linkRead).seq = s.seq := rfl
@[simp] theorem State.linkRead_op : (s.linkRead).op = s.op := rfl
@[simp] theorem State.linkRead_cmd : (s.linkRead).cmd = s.cmd := rfl
@[simp] theorem State.linkRead_addr : (s.linkRead).addr = s.addr := rfl
@[simp] theorem State.linkRead_off : (s.linkRead).off = s.off := rfl
@[simp] theorem State.linkRead_cnt : (s.linkRead).cnt = s.cnt := rfl
@[simp] theorem State.linkRead_txBuf : (s.linkRead).txBuf = s.txBuf := rfl
@[simp] theorem State.linkRead_rxBuf : (s.linkRead).rxBuf = s.rxBuf := rfl
@[simp] theorem State.linkRead_callFailed : (s.linkRead).callFailed = s.callFailed := rfl
@[simp] theorem State.linkRead_dActive : (s.linkRead).dActive = s.dActive := rfl
@[simp] theorem State.linkRead_dStat : (s.linkRead).dStat = s.dStat := rfl
@[simp] theorem State.linkRead_dWord : (s.linkRead).dWord = s.dWord := rfl
@[simp] theorem State.linkRead_dCursor : (s.linkRead).dCursor = s.dCursor := rfl
@[simp] theorem State.linkRead_count : (s.linkRead).count = s.count := rfl
@[simp] theorem State.linkRead_refused : (s.linkRead).refused = s.refused := rfl
@[simp] theorem State.linkRead_par : (s.linkRead).par = s.par := rfl
@[simp] theorem State.linkRead_port : (s.linkRead).port = s.port := rfl
@[simp] theorem State.linkRead_asking : (s.linkRead).asking = s.asking := rfl
@[simp] theorem State.linkRead_client : (s.linkRead).client = s.client := rfl
@[simp] theorem State.linkRead_dClient : (s.linkRead).dClient = s.dClient := rfl
@[simp] theorem State.linkRead_env : (s.linkRead).env = s.env.tail := rfl
@[simp] theorem State.linkRead_drawn : (s.linkRead).drawn = s.drawn + 1 := rfl
@[simp] theorem State.linkRead_trace : (s.linkRead).trace = .linkRead s.inputs.rxdr :: s.trace := rfl

/-! ### State.setSel -/

@[simp] theorem State.setSel_state (v : Bool) : (s.setSel v).state = s.state := rfl
@[simp] theorem State.setSel_errorCode (v : Bool) : (s.setSel v).errorCode = s.errorCode := rfl
@[simp] theorem State.setSel_deepSleep (v : Bool) : (s.setSel v).deepSleep = s.deepSleep := rfl
@[simp] theorem State.setSel_lockHeld (v : Bool) : (s.setSel v).lockHeld = s.lockHeld := rfl
@[simp] theorem State.setSel_baudPrescaler (v : Bool) : (s.setSel v).baudPrescaler = s.baudPrescaler := rfl
@[simp] theorem State.setSel_busEnabled (v : Bool) : (s.setSel v).busEnabled = s.busEnabled := rfl
@[simp] theorem State.setSel_sel (v : Bool) : (s.setSel v).sel = v := rfl
@[simp] theorem State.setSel_rst (v : Bool) : (s.setSel v).rst = s.rst := rfl
@[simp] theorem State.setSel_txdr (v : Bool) : (s.setSel v).txdr = s.txdr := rfl
@[simp] theorem State.setSel_presc (v : Bool) : (s.setSel v).presc = s.presc := rfl
@[simp] theorem State.setSel_evt (v : Bool) : (s.setSel v).evt = s.evt := rfl
@[simp] theorem State.setSel_evtValid (v : Bool) : (s.setSel v).evtValid = s.evtValid := rfl
@[simp] theorem State.setSel_seq (v : Bool) : (s.setSel v).seq = s.seq := rfl
@[simp] theorem State.setSel_op (v : Bool) : (s.setSel v).op = s.op := rfl
@[simp] theorem State.setSel_cmd (v : Bool) : (s.setSel v).cmd = s.cmd := rfl
@[simp] theorem State.setSel_addr (v : Bool) : (s.setSel v).addr = s.addr := rfl
@[simp] theorem State.setSel_off (v : Bool) : (s.setSel v).off = s.off := rfl
@[simp] theorem State.setSel_cnt (v : Bool) : (s.setSel v).cnt = s.cnt := rfl
@[simp] theorem State.setSel_txBuf (v : Bool) : (s.setSel v).txBuf = s.txBuf := rfl
@[simp] theorem State.setSel_rxBuf (v : Bool) : (s.setSel v).rxBuf = s.rxBuf := rfl
@[simp] theorem State.setSel_callFailed (v : Bool) : (s.setSel v).callFailed = s.callFailed := rfl
@[simp] theorem State.setSel_dActive (v : Bool) : (s.setSel v).dActive = s.dActive := rfl
@[simp] theorem State.setSel_dStat (v : Bool) : (s.setSel v).dStat = s.dStat := rfl
@[simp] theorem State.setSel_dWord (v : Bool) : (s.setSel v).dWord = s.dWord := rfl
@[simp] theorem State.setSel_dCursor (v : Bool) : (s.setSel v).dCursor = s.dCursor := rfl
@[simp] theorem State.setSel_count (v : Bool) : (s.setSel v).count = s.count := rfl
@[simp] theorem State.setSel_refused (v : Bool) : (s.setSel v).refused = s.refused := rfl
@[simp] theorem State.setSel_par (v : Bool) : (s.setSel v).par = s.par := rfl
@[simp] theorem State.setSel_port (v : Bool) : (s.setSel v).port = s.port := rfl
@[simp] theorem State.setSel_asking (v : Bool) : (s.setSel v).asking = s.asking := rfl
@[simp] theorem State.setSel_client (v : Bool) : (s.setSel v).client = s.client := rfl
@[simp] theorem State.setSel_dClient (v : Bool) : (s.setSel v).dClient = s.dClient := rfl
@[simp] theorem State.setSel_env (v : Bool) : (s.setSel v).env = s.env := rfl
@[simp] theorem State.setSel_drawn (v : Bool) : (s.setSel v).drawn = s.drawn := rfl
@[simp] theorem State.setSel_trace (v : Bool) : (s.setSel v).trace = .sel v :: s.trace := rfl

/-! ### State.setRst -/

@[simp] theorem State.setRst_state (v : Bool) : (s.setRst v).state = s.state := rfl
@[simp] theorem State.setRst_errorCode (v : Bool) : (s.setRst v).errorCode = s.errorCode := rfl
@[simp] theorem State.setRst_deepSleep (v : Bool) : (s.setRst v).deepSleep = s.deepSleep := rfl
@[simp] theorem State.setRst_lockHeld (v : Bool) : (s.setRst v).lockHeld = s.lockHeld := rfl
@[simp] theorem State.setRst_baudPrescaler (v : Bool) : (s.setRst v).baudPrescaler = s.baudPrescaler := rfl
@[simp] theorem State.setRst_busEnabled (v : Bool) : (s.setRst v).busEnabled = s.busEnabled := rfl
@[simp] theorem State.setRst_sel (v : Bool) : (s.setRst v).sel = s.sel := rfl
@[simp] theorem State.setRst_rst (v : Bool) : (s.setRst v).rst = v := rfl
@[simp] theorem State.setRst_txdr (v : Bool) : (s.setRst v).txdr = s.txdr := rfl
@[simp] theorem State.setRst_presc (v : Bool) : (s.setRst v).presc = s.presc := rfl
@[simp] theorem State.setRst_evt (v : Bool) : (s.setRst v).evt = s.evt := rfl
@[simp] theorem State.setRst_evtValid (v : Bool) : (s.setRst v).evtValid = s.evtValid := rfl
@[simp] theorem State.setRst_seq (v : Bool) : (s.setRst v).seq = s.seq := rfl
@[simp] theorem State.setRst_op (v : Bool) : (s.setRst v).op = s.op := rfl
@[simp] theorem State.setRst_cmd (v : Bool) : (s.setRst v).cmd = s.cmd := rfl
@[simp] theorem State.setRst_addr (v : Bool) : (s.setRst v).addr = s.addr := rfl
@[simp] theorem State.setRst_off (v : Bool) : (s.setRst v).off = s.off := rfl
@[simp] theorem State.setRst_cnt (v : Bool) : (s.setRst v).cnt = s.cnt := rfl
@[simp] theorem State.setRst_txBuf (v : Bool) : (s.setRst v).txBuf = s.txBuf := rfl
@[simp] theorem State.setRst_rxBuf (v : Bool) : (s.setRst v).rxBuf = s.rxBuf := rfl
@[simp] theorem State.setRst_callFailed (v : Bool) : (s.setRst v).callFailed = s.callFailed := rfl
@[simp] theorem State.setRst_dActive (v : Bool) : (s.setRst v).dActive = s.dActive := rfl
@[simp] theorem State.setRst_dStat (v : Bool) : (s.setRst v).dStat = s.dStat := rfl
@[simp] theorem State.setRst_dWord (v : Bool) : (s.setRst v).dWord = s.dWord := rfl
@[simp] theorem State.setRst_dCursor (v : Bool) : (s.setRst v).dCursor = s.dCursor := rfl
@[simp] theorem State.setRst_count (v : Bool) : (s.setRst v).count = s.count := rfl
@[simp] theorem State.setRst_refused (v : Bool) : (s.setRst v).refused = s.refused := rfl
@[simp] theorem State.setRst_par (v : Bool) : (s.setRst v).par = s.par := rfl
@[simp] theorem State.setRst_port (v : Bool) : (s.setRst v).port = s.port := rfl
@[simp] theorem State.setRst_asking (v : Bool) : (s.setRst v).asking = s.asking := rfl
@[simp] theorem State.setRst_client (v : Bool) : (s.setRst v).client = s.client := rfl
@[simp] theorem State.setRst_dClient (v : Bool) : (s.setRst v).dClient = s.dClient := rfl
@[simp] theorem State.setRst_env (v : Bool) : (s.setRst v).env = s.env := rfl
@[simp] theorem State.setRst_drawn (v : Bool) : (s.setRst v).drawn = s.drawn := rfl
@[simp] theorem State.setRst_trace (v : Bool) : (s.setRst v).trace = .rst v :: s.trace := rfl

/-! ### State.hold -/

@[simp] theorem State.hold_state (n : Nat) : (s.hold n).state = s.state := rfl
@[simp] theorem State.hold_errorCode (n : Nat) : (s.hold n).errorCode = s.errorCode := rfl
@[simp] theorem State.hold_deepSleep (n : Nat) : (s.hold n).deepSleep = s.deepSleep := rfl
@[simp] theorem State.hold_lockHeld (n : Nat) : (s.hold n).lockHeld = s.lockHeld := rfl
@[simp] theorem State.hold_baudPrescaler (n : Nat) : (s.hold n).baudPrescaler = s.baudPrescaler := rfl
@[simp] theorem State.hold_busEnabled (n : Nat) : (s.hold n).busEnabled = s.busEnabled := rfl
@[simp] theorem State.hold_sel (n : Nat) : (s.hold n).sel = s.sel := rfl
@[simp] theorem State.hold_rst (n : Nat) : (s.hold n).rst = s.rst := rfl
@[simp] theorem State.hold_txdr (n : Nat) : (s.hold n).txdr = s.txdr := rfl
@[simp] theorem State.hold_presc (n : Nat) : (s.hold n).presc = s.presc := rfl
@[simp] theorem State.hold_evt (n : Nat) : (s.hold n).evt = s.evt := rfl
@[simp] theorem State.hold_evtValid (n : Nat) : (s.hold n).evtValid = s.evtValid := rfl
@[simp] theorem State.hold_seq (n : Nat) : (s.hold n).seq = s.seq := rfl
@[simp] theorem State.hold_op (n : Nat) : (s.hold n).op = s.op := rfl
@[simp] theorem State.hold_cmd (n : Nat) : (s.hold n).cmd = s.cmd := rfl
@[simp] theorem State.hold_addr (n : Nat) : (s.hold n).addr = s.addr := rfl
@[simp] theorem State.hold_off (n : Nat) : (s.hold n).off = s.off := rfl
@[simp] theorem State.hold_cnt (n : Nat) : (s.hold n).cnt = s.cnt := rfl
@[simp] theorem State.hold_txBuf (n : Nat) : (s.hold n).txBuf = s.txBuf := rfl
@[simp] theorem State.hold_rxBuf (n : Nat) : (s.hold n).rxBuf = s.rxBuf := rfl
@[simp] theorem State.hold_callFailed (n : Nat) : (s.hold n).callFailed = s.callFailed := rfl
@[simp] theorem State.hold_dActive (n : Nat) : (s.hold n).dActive = s.dActive := rfl
@[simp] theorem State.hold_dStat (n : Nat) : (s.hold n).dStat = s.dStat := rfl
@[simp] theorem State.hold_dWord (n : Nat) : (s.hold n).dWord = s.dWord := rfl
@[simp] theorem State.hold_dCursor (n : Nat) : (s.hold n).dCursor = s.dCursor := rfl
@[simp] theorem State.hold_count (n : Nat) : (s.hold n).count = s.count := rfl
@[simp] theorem State.hold_refused (n : Nat) : (s.hold n).refused = s.refused := rfl
@[simp] theorem State.hold_par (n : Nat) : (s.hold n).par = s.par := rfl
@[simp] theorem State.hold_port (n : Nat) : (s.hold n).port = s.port := rfl
@[simp] theorem State.hold_asking (n : Nat) : (s.hold n).asking = s.asking := rfl
@[simp] theorem State.hold_client (n : Nat) : (s.hold n).client = s.client := rfl
@[simp] theorem State.hold_dClient (n : Nat) : (s.hold n).dClient = s.dClient := rfl
@[simp] theorem State.hold_env (n : Nat) : (s.hold n).env = s.env := rfl
@[simp] theorem State.hold_drawn (n : Nat) : (s.hold n).drawn = s.drawn := rfl
@[simp] theorem State.hold_trace (n : Nat) : (s.hold n).trace = .hold n :: s.trace := rfl

/-! ### State.linkWrite -/

@[simp] theorem State.linkWrite_state (b : Byte) : (s.linkWrite b).state = s.state := rfl
@[simp] theorem State.linkWrite_errorCode (b : Byte) : (s.linkWrite b).errorCode = s.errorCode := rfl
@[simp] theorem State.linkWrite_deepSleep (b : Byte) : (s.linkWrite b).deepSleep = s.deepSleep := rfl
@[simp] theorem State.linkWrite_lockHeld (b : Byte) : (s.linkWrite b).lockHeld = s.lockHeld := rfl
@[simp] theorem State.linkWrite_baudPrescaler (b : Byte) : (s.linkWrite b).baudPrescaler = s.baudPrescaler := rfl
@[simp] theorem State.linkWrite_busEnabled (b : Byte) : (s.linkWrite b).busEnabled = s.busEnabled := rfl
@[simp] theorem State.linkWrite_sel (b : Byte) : (s.linkWrite b).sel = s.sel := rfl
@[simp] theorem State.linkWrite_rst (b : Byte) : (s.linkWrite b).rst = s.rst := rfl
@[simp] theorem State.linkWrite_txdr (b : Byte) : (s.linkWrite b).txdr = b := rfl
@[simp] theorem State.linkWrite_presc (b : Byte) : (s.linkWrite b).presc = s.presc := rfl
@[simp] theorem State.linkWrite_evt (b : Byte) : (s.linkWrite b).evt = s.evt := rfl
@[simp] theorem State.linkWrite_evtValid (b : Byte) : (s.linkWrite b).evtValid = s.evtValid := rfl
@[simp] theorem State.linkWrite_seq (b : Byte) : (s.linkWrite b).seq = s.seq := rfl
@[simp] theorem State.linkWrite_op (b : Byte) : (s.linkWrite b).op = s.op := rfl
@[simp] theorem State.linkWrite_cmd (b : Byte) : (s.linkWrite b).cmd = s.cmd := rfl
@[simp] theorem State.linkWrite_addr (b : Byte) : (s.linkWrite b).addr = s.addr := rfl
@[simp] theorem State.linkWrite_off (b : Byte) : (s.linkWrite b).off = s.off := rfl
@[simp] theorem State.linkWrite_cnt (b : Byte) : (s.linkWrite b).cnt = s.cnt := rfl
@[simp] theorem State.linkWrite_txBuf (b : Byte) : (s.linkWrite b).txBuf = s.txBuf := rfl
@[simp] theorem State.linkWrite_rxBuf (b : Byte) : (s.linkWrite b).rxBuf = s.rxBuf := rfl
@[simp] theorem State.linkWrite_callFailed (b : Byte) : (s.linkWrite b).callFailed = s.callFailed := rfl
@[simp] theorem State.linkWrite_dActive (b : Byte) : (s.linkWrite b).dActive = s.dActive := rfl
@[simp] theorem State.linkWrite_dStat (b : Byte) : (s.linkWrite b).dStat = s.dStat := rfl
@[simp] theorem State.linkWrite_dWord (b : Byte) : (s.linkWrite b).dWord = s.dWord := rfl
@[simp] theorem State.linkWrite_dCursor (b : Byte) : (s.linkWrite b).dCursor = s.dCursor := rfl
@[simp] theorem State.linkWrite_count (b : Byte) : (s.linkWrite b).count = s.count := rfl
@[simp] theorem State.linkWrite_refused (b : Byte) : (s.linkWrite b).refused = s.refused := rfl
@[simp] theorem State.linkWrite_par (b : Byte) : (s.linkWrite b).par = s.par := rfl
@[simp] theorem State.linkWrite_port (b : Byte) : (s.linkWrite b).port = s.port := rfl
@[simp] theorem State.linkWrite_asking (b : Byte) : (s.linkWrite b).asking = s.asking := rfl
@[simp] theorem State.linkWrite_client (b : Byte) : (s.linkWrite b).client = s.client := rfl
@[simp] theorem State.linkWrite_dClient (b : Byte) : (s.linkWrite b).dClient = s.dClient := rfl
@[simp] theorem State.linkWrite_env (b : Byte) : (s.linkWrite b).env = s.env := rfl
@[simp] theorem State.linkWrite_drawn (b : Byte) : (s.linkWrite b).drawn = s.drawn := rfl
@[simp] theorem State.linkWrite_trace (b : Byte) : (s.linkWrite b).trace = .linkWrite b :: s.trace := rfl

/-! ### State.emit -/

@[simp] theorem State.emit_state (e : BitVec 4) : (s.emit e).state = s.state := rfl
@[simp] theorem State.emit_errorCode (e : BitVec 4) : (s.emit e).errorCode = s.errorCode := rfl
@[simp] theorem State.emit_deepSleep (e : BitVec 4) : (s.emit e).deepSleep = s.deepSleep := rfl
@[simp] theorem State.emit_lockHeld (e : BitVec 4) : (s.emit e).lockHeld = s.lockHeld := rfl
@[simp] theorem State.emit_baudPrescaler (e : BitVec 4) : (s.emit e).baudPrescaler = s.baudPrescaler := rfl
@[simp] theorem State.emit_busEnabled (e : BitVec 4) : (s.emit e).busEnabled = s.busEnabled := rfl
@[simp] theorem State.emit_sel (e : BitVec 4) : (s.emit e).sel = s.sel := rfl
@[simp] theorem State.emit_rst (e : BitVec 4) : (s.emit e).rst = s.rst := rfl
@[simp] theorem State.emit_txdr (e : BitVec 4) : (s.emit e).txdr = s.txdr := rfl
@[simp] theorem State.emit_presc (e : BitVec 4) : (s.emit e).presc = s.presc := rfl
@[simp] theorem State.emit_evt (e : BitVec 4) : (s.emit e).evt = e := rfl
@[simp] theorem State.emit_evtValid (e : BitVec 4) : (s.emit e).evtValid = true := rfl
@[simp] theorem State.emit_seq (e : BitVec 4) : (s.emit e).seq = s.seq := rfl
@[simp] theorem State.emit_op (e : BitVec 4) : (s.emit e).op = s.op := rfl
@[simp] theorem State.emit_cmd (e : BitVec 4) : (s.emit e).cmd = s.cmd := rfl
@[simp] theorem State.emit_addr (e : BitVec 4) : (s.emit e).addr = s.addr := rfl
@[simp] theorem State.emit_off (e : BitVec 4) : (s.emit e).off = s.off := rfl
@[simp] theorem State.emit_cnt (e : BitVec 4) : (s.emit e).cnt = s.cnt := rfl
@[simp] theorem State.emit_txBuf (e : BitVec 4) : (s.emit e).txBuf = s.txBuf := rfl
@[simp] theorem State.emit_rxBuf (e : BitVec 4) : (s.emit e).rxBuf = s.rxBuf := rfl
@[simp] theorem State.emit_callFailed (e : BitVec 4) : (s.emit e).callFailed = s.callFailed := rfl
@[simp] theorem State.emit_dActive (e : BitVec 4) : (s.emit e).dActive = s.dActive := rfl
@[simp] theorem State.emit_dStat (e : BitVec 4) : (s.emit e).dStat = s.dStat := rfl
@[simp] theorem State.emit_dWord (e : BitVec 4) : (s.emit e).dWord = s.dWord := rfl
@[simp] theorem State.emit_dCursor (e : BitVec 4) : (s.emit e).dCursor = s.dCursor := rfl
@[simp] theorem State.emit_count (e : BitVec 4) : (s.emit e).count = s.count := rfl
@[simp] theorem State.emit_refused (e : BitVec 4) : (s.emit e).refused = s.refused := rfl
@[simp] theorem State.emit_par (e : BitVec 4) : (s.emit e).par = s.par := rfl
@[simp] theorem State.emit_port (e : BitVec 4) : (s.emit e).port = s.port := rfl
@[simp] theorem State.emit_asking (e : BitVec 4) : (s.emit e).asking = s.asking := rfl
@[simp] theorem State.emit_client (e : BitVec 4) : (s.emit e).client = s.client := rfl
@[simp] theorem State.emit_dClient (e : BitVec 4) : (s.emit e).dClient = s.dClient := rfl
@[simp] theorem State.emit_env (e : BitVec 4) : (s.emit e).env = s.env := rfl
@[simp] theorem State.emit_drawn (e : BitVec 4) : (s.emit e).drawn = s.drawn := rfl
@[simp] theorem State.emit_trace (e : BitVec 4) : (s.emit e).trace = .emit e :: s.trace := rfl

/-! ### State.recordFault -/

@[simp] theorem State.recordFault_state (k : FaultKind) : (s.recordFault k).state = s.state := rfl
@[simp] theorem State.recordFault_errorCode (k : FaultKind) : (s.recordFault k).errorCode = k.code := rfl
@[simp] theorem State.recordFault_deepSleep (k : FaultKind) : (s.recordFault k).deepSleep = s.deepSleep := rfl
@[simp] theorem State.recordFault_lockHeld (k : FaultKind) : (s.recordFault k).lockHeld = s.lockHeld := rfl
@[simp] theorem State.recordFault_baudPrescaler (k : FaultKind) : (s.recordFault k).baudPrescaler = s.baudPrescaler := rfl
@[simp] theorem State.recordFault_busEnabled (k : FaultKind) : (s.recordFault k).busEnabled = s.busEnabled := rfl
@[simp] theorem State.recordFault_sel (k : FaultKind) : (s.recordFault k).sel = s.sel := rfl
@[simp] theorem State.recordFault_rst (k : FaultKind) : (s.recordFault k).rst = s.rst := rfl
@[simp] theorem State.recordFault_txdr (k : FaultKind) : (s.recordFault k).txdr = s.txdr := rfl
@[simp] theorem State.recordFault_presc (k : FaultKind) : (s.recordFault k).presc = s.presc := rfl
@[simp] theorem State.recordFault_evt (k : FaultKind) : (s.recordFault k).evt = s.evt := rfl
@[simp] theorem State.recordFault_evtValid (k : FaultKind) : (s.recordFault k).evtValid = s.evtValid := rfl
@[simp] theorem State.recordFault_seq (k : FaultKind) : (s.recordFault k).seq = s.seq := rfl
@[simp] theorem State.recordFault_op (k : FaultKind) : (s.recordFault k).op = s.op := rfl
@[simp] theorem State.recordFault_cmd (k : FaultKind) : (s.recordFault k).cmd = s.cmd := rfl
@[simp] theorem State.recordFault_addr (k : FaultKind) : (s.recordFault k).addr = s.addr := rfl
@[simp] theorem State.recordFault_off (k : FaultKind) : (s.recordFault k).off = s.off := rfl
@[simp] theorem State.recordFault_cnt (k : FaultKind) : (s.recordFault k).cnt = s.cnt := rfl
@[simp] theorem State.recordFault_txBuf (k : FaultKind) : (s.recordFault k).txBuf = s.txBuf := rfl
@[simp] theorem State.recordFault_rxBuf (k : FaultKind) : (s.recordFault k).rxBuf = s.rxBuf := rfl
@[simp] theorem State.recordFault_callFailed (k : FaultKind) : (s.recordFault k).callFailed = true := rfl
@[simp] theorem State.recordFault_dActive (k : FaultKind) : (s.recordFault k).dActive = s.dActive := rfl
@[simp] theorem State.recordFault_dStat (k : FaultKind) : (s.recordFault k).dStat = s.dStat := rfl
@[simp] theorem State.recordFault_dWord (k : FaultKind) : (s.recordFault k).dWord = s.dWord := rfl
@[simp] theorem State.recordFault_dCursor (k : FaultKind) : (s.recordFault k).dCursor = s.dCursor := rfl
@[simp] theorem State.recordFault_count (k : FaultKind) : (s.recordFault k).count = s.count := rfl
@[simp] theorem State.recordFault_refused (k : FaultKind) : (s.recordFault k).refused = s.refused := rfl
@[simp] theorem State.recordFault_par (k : FaultKind) : (s.recordFault k).par = s.par := rfl
@[simp] theorem State.recordFault_port (k : FaultKind) : (s.recordFault k).port = s.port := rfl
@[simp] theorem State.recordFault_asking (k : FaultKind) : (s.recordFault k).asking = s.asking := rfl
@[simp] theorem State.recordFault_client (k : FaultKind) : (s.recordFault k).client = s.client := rfl
@[simp] theorem State.recordFault_dClient (k : FaultKind) : (s.recordFault k).dClient = s.dClient := rfl
@[simp] theorem State.recordFault_env (k : FaultKind) : (s.recordFault k).env = s.env := rfl
@[simp] theorem State.recordFault_drawn (k : FaultKind) : (s.recordFault k).drawn = s.drawn := rfl
@[simp] theorem State.recordFault_trace (k : FaultKind) : (s.recordFault k).trace = s.trace := rfl

/-! ### State.goTo -/

@[simp] theorem State.goTo_state (k : Point) : (s.goTo k).state = s.state := rfl
@[simp] theorem State.goTo_errorCode (k : Point) : (s.goTo k).errorCode = s.errorCode := rfl
@[simp] theorem State.goTo_deepSleep (k : Point) : (s.goTo k).deepSleep = s.deepSleep := rfl
@[simp] theorem State.goTo_lockHeld (k : Point) : (s.goTo k).lockHeld = s.lockHeld := rfl
@[simp] theorem State.goTo_baudPrescaler (k : Point) : (s.goTo k).baudPrescaler = s.baudPrescaler := rfl
@[simp] theorem State.goTo_busEnabled (k : Point) : (s.goTo k).busEnabled = s.busEnabled := rfl
@[simp] theorem State.goTo_sel (k : Point) : (s.goTo k).sel = s.sel := rfl
@[simp] theorem State.goTo_rst (k : Point) : (s.goTo k).rst = s.rst := rfl
@[simp] theorem State.goTo_txdr (k : Point) : (s.goTo k).txdr = s.txdr := rfl
@[simp] theorem State.goTo_presc (k : Point) : (s.goTo k).presc = s.presc := rfl
@[simp] theorem State.goTo_evt (k : Point) : (s.goTo k).evt = s.evt := rfl
@[simp] theorem State.goTo_evtValid (k : Point) : (s.goTo k).evtValid = s.evtValid := rfl
@[simp] theorem State.goTo_seq (k : Point) : (s.goTo k).seq = .op k := rfl
@[simp] theorem State.goTo_op (k : Point) : (s.goTo k).op = s.op := rfl
@[simp] theorem State.goTo_cmd (k : Point) : (s.goTo k).cmd = s.cmd := rfl
@[simp] theorem State.goTo_addr (k : Point) : (s.goTo k).addr = s.addr := rfl
@[simp] theorem State.goTo_off (k : Point) : (s.goTo k).off = s.off := rfl
@[simp] theorem State.goTo_cnt (k : Point) : (s.goTo k).cnt = s.cnt := rfl
@[simp] theorem State.goTo_txBuf (k : Point) : (s.goTo k).txBuf = s.txBuf := rfl
@[simp] theorem State.goTo_rxBuf (k : Point) : (s.goTo k).rxBuf = s.rxBuf := rfl
@[simp] theorem State.goTo_callFailed (k : Point) : (s.goTo k).callFailed = s.callFailed := rfl
@[simp] theorem State.goTo_dActive (k : Point) : (s.goTo k).dActive = s.dActive := rfl
@[simp] theorem State.goTo_dStat (k : Point) : (s.goTo k).dStat = s.dStat := rfl
@[simp] theorem State.goTo_dWord (k : Point) : (s.goTo k).dWord = s.dWord := rfl
@[simp] theorem State.goTo_dCursor (k : Point) : (s.goTo k).dCursor = s.dCursor := rfl
@[simp] theorem State.goTo_count (k : Point) : (s.goTo k).count = s.count := rfl
@[simp] theorem State.goTo_refused (k : Point) : (s.goTo k).refused = s.refused := rfl
@[simp] theorem State.goTo_par (k : Point) : (s.goTo k).par = s.par := rfl
@[simp] theorem State.goTo_port (k : Point) : (s.goTo k).port = s.port := rfl
@[simp] theorem State.goTo_asking (k : Point) : (s.goTo k).asking = s.asking := rfl
@[simp] theorem State.goTo_client (k : Point) : (s.goTo k).client = s.client := rfl
@[simp] theorem State.goTo_dClient (k : Point) : (s.goTo k).dClient = s.dClient := rfl
@[simp] theorem State.goTo_env (k : Point) : (s.goTo k).env = s.env := rfl
@[simp] theorem State.goTo_drawn (k : Point) : (s.goTo k).drawn = s.drawn := rfl
@[simp] theorem State.goTo_trace (k : Point) : (s.goTo k).trace = s.trace := rfl

/-! ### State.goWait -/

@[simp] theorem State.goWait_state (k : WaitPoint) : (s.goWait k).state = s.state := rfl
@[simp] theorem State.goWait_errorCode (k : WaitPoint) : (s.goWait k).errorCode = s.errorCode := rfl
@[simp] theorem State.goWait_deepSleep (k : WaitPoint) : (s.goWait k).deepSleep = s.deepSleep := rfl
@[simp] theorem State.goWait_lockHeld (k : WaitPoint) : (s.goWait k).lockHeld = s.lockHeld := rfl
@[simp] theorem State.goWait_baudPrescaler (k : WaitPoint) : (s.goWait k).baudPrescaler = s.baudPrescaler := rfl
@[simp] theorem State.goWait_busEnabled (k : WaitPoint) : (s.goWait k).busEnabled = s.busEnabled := rfl
@[simp] theorem State.goWait_sel (k : WaitPoint) : (s.goWait k).sel = s.sel := rfl
@[simp] theorem State.goWait_rst (k : WaitPoint) : (s.goWait k).rst = s.rst := rfl
@[simp] theorem State.goWait_txdr (k : WaitPoint) : (s.goWait k).txdr = s.txdr := rfl
@[simp] theorem State.goWait_presc (k : WaitPoint) : (s.goWait k).presc = s.presc := rfl
@[simp] theorem State.goWait_evt (k : WaitPoint) : (s.goWait k).evt = s.evt := rfl
@[simp] theorem State.goWait_evtValid (k : WaitPoint) : (s.goWait k).evtValid = s.evtValid := rfl
@[simp] theorem State.goWait_seq (k : WaitPoint) : (s.goWait k).seq = .wait k := rfl
@[simp] theorem State.goWait_op (k : WaitPoint) : (s.goWait k).op = s.op := rfl
@[simp] theorem State.goWait_cmd (k : WaitPoint) : (s.goWait k).cmd = s.cmd := rfl
@[simp] theorem State.goWait_addr (k : WaitPoint) : (s.goWait k).addr = s.addr := rfl
@[simp] theorem State.goWait_off (k : WaitPoint) : (s.goWait k).off = s.off := rfl
@[simp] theorem State.goWait_cnt (k : WaitPoint) : (s.goWait k).cnt = s.cnt := rfl
@[simp] theorem State.goWait_txBuf (k : WaitPoint) : (s.goWait k).txBuf = s.txBuf := rfl
@[simp] theorem State.goWait_rxBuf (k : WaitPoint) : (s.goWait k).rxBuf = s.rxBuf := rfl
@[simp] theorem State.goWait_callFailed (k : WaitPoint) : (s.goWait k).callFailed = s.callFailed := rfl
@[simp] theorem State.goWait_dActive (k : WaitPoint) : (s.goWait k).dActive = s.dActive := rfl
@[simp] theorem State.goWait_dStat (k : WaitPoint) : (s.goWait k).dStat = s.dStat := rfl
@[simp] theorem State.goWait_dWord (k : WaitPoint) : (s.goWait k).dWord = s.dWord := rfl
@[simp] theorem State.goWait_dCursor (k : WaitPoint) : (s.goWait k).dCursor = s.dCursor := rfl
@[simp] theorem State.goWait_count (k : WaitPoint) : (s.goWait k).count = (k.budget s.par).getD s.count := rfl
@[simp] theorem State.goWait_refused (k : WaitPoint) : (s.goWait k).refused = s.refused := rfl
@[simp] theorem State.goWait_par (k : WaitPoint) : (s.goWait k).par = s.par := rfl
@[simp] theorem State.goWait_port (k : WaitPoint) : (s.goWait k).port = s.port := rfl
@[simp] theorem State.goWait_asking (k : WaitPoint) : (s.goWait k).asking = s.asking := rfl
@[simp] theorem State.goWait_client (k : WaitPoint) : (s.goWait k).client = s.client := rfl
@[simp] theorem State.goWait_dClient (k : WaitPoint) : (s.goWait k).dClient = s.dClient := rfl
@[simp] theorem State.goWait_env (k : WaitPoint) : (s.goWait k).env = s.env := rfl
@[simp] theorem State.goWait_drawn (k : WaitPoint) : (s.goWait k).drawn = s.drawn := rfl
@[simp] theorem State.goWait_trace (k : WaitPoint) : (s.goWait k).trace = s.trace := rfl

/-! ### State.resumeAt -/

@[simp] theorem State.resumeAt_state (r : Resume) : (s.resumeAt r).state = s.state := rfl
@[simp] theorem State.resumeAt_errorCode (r : Resume) : (s.resumeAt r).errorCode = s.errorCode := rfl
@[simp] theorem State.resumeAt_deepSleep (r : Resume) : (s.resumeAt r).deepSleep = s.deepSleep := rfl
@[simp] theorem State.resumeAt_lockHeld (r : Resume) : (s.resumeAt r).lockHeld = s.lockHeld := rfl
@[simp] theorem State.resumeAt_baudPrescaler (r : Resume) : (s.resumeAt r).baudPrescaler = s.baudPrescaler := rfl
@[simp] theorem State.resumeAt_busEnabled (r : Resume) : (s.resumeAt r).busEnabled = s.busEnabled := rfl
@[simp] theorem State.resumeAt_sel (r : Resume) : (s.resumeAt r).sel = s.sel := rfl
@[simp] theorem State.resumeAt_rst (r : Resume) : (s.resumeAt r).rst = s.rst := rfl
@[simp] theorem State.resumeAt_txdr (r : Resume) : (s.resumeAt r).txdr = s.txdr := rfl
@[simp] theorem State.resumeAt_presc (r : Resume) : (s.resumeAt r).presc = s.presc := rfl
@[simp] theorem State.resumeAt_evt (r : Resume) : (s.resumeAt r).evt = s.evt := rfl
@[simp] theorem State.resumeAt_evtValid (r : Resume) : (s.resumeAt r).evtValid = s.evtValid := rfl
@[simp] theorem State.resumeAt_seq (r : Resume) : (s.resumeAt r).seq = r.seq := rfl
@[simp] theorem State.resumeAt_op (r : Resume) : (s.resumeAt r).op = r.op s.op := rfl
@[simp] theorem State.resumeAt_cmd (r : Resume) : (s.resumeAt r).cmd = s.cmd := rfl
@[simp] theorem State.resumeAt_addr (r : Resume) : (s.resumeAt r).addr = s.addr := rfl
@[simp] theorem State.resumeAt_off (r : Resume) : (s.resumeAt r).off = s.off := rfl
@[simp] theorem State.resumeAt_cnt (r : Resume) : (s.resumeAt r).cnt = s.cnt := rfl
@[simp] theorem State.resumeAt_txBuf (r : Resume) : (s.resumeAt r).txBuf = s.txBuf := rfl
@[simp] theorem State.resumeAt_rxBuf (r : Resume) : (s.resumeAt r).rxBuf = s.rxBuf := rfl
@[simp] theorem State.resumeAt_callFailed (r : Resume) : (s.resumeAt r).callFailed = s.callFailed := rfl
@[simp] theorem State.resumeAt_dActive (r : Resume) : (s.resumeAt r).dActive = s.dActive := rfl
@[simp] theorem State.resumeAt_dStat (r : Resume) : (s.resumeAt r).dStat = s.dStat := rfl
@[simp] theorem State.resumeAt_dWord (r : Resume) : (s.resumeAt r).dWord = s.dWord := rfl
@[simp] theorem State.resumeAt_dCursor (r : Resume) : (s.resumeAt r).dCursor = s.dCursor := rfl
@[simp] theorem State.resumeAt_count (r : Resume) : (s.resumeAt r).count = s.count := rfl
@[simp] theorem State.resumeAt_refused (r : Resume) : (s.resumeAt r).refused = s.refused := rfl
@[simp] theorem State.resumeAt_par (r : Resume) : (s.resumeAt r).par = s.par := rfl
@[simp] theorem State.resumeAt_port (r : Resume) : (s.resumeAt r).port = s.port := rfl
@[simp] theorem State.resumeAt_asking (r : Resume) : (s.resumeAt r).asking = s.asking := rfl
@[simp] theorem State.resumeAt_client (r : Resume) : (s.resumeAt r).client = s.client := rfl
@[simp] theorem State.resumeAt_dClient (r : Resume) : (s.resumeAt r).dClient = s.dClient := rfl
@[simp] theorem State.resumeAt_env (r : Resume) : (s.resumeAt r).env = s.env := rfl
@[simp] theorem State.resumeAt_drawn (r : Resume) : (s.resumeAt r).drawn = s.drawn := rfl
@[simp] theorem State.resumeAt_trace (r : Resume) : (s.resumeAt r).trace = s.trace := rfl

/-! ### State.acquire -/

@[simp] theorem State.acquire_state : (s.acquire).state = .busy := rfl
@[simp] theorem State.acquire_errorCode : (s.acquire).errorCode = if s.par.errPolicy = .perOperation then 0 else s.errorCode := rfl
@[simp] theorem State.acquire_deepSleep : (s.acquire).deepSleep = s.deepSleep := rfl
@[simp] theorem State.acquire_lockHeld : (s.acquire).lockHeld = true := rfl
@[simp] theorem State.acquire_baudPrescaler : (s.acquire).baudPrescaler = s.baudPrescaler := rfl
@[simp] theorem State.acquire_busEnabled : (s.acquire).busEnabled = s.busEnabled := rfl
@[simp] theorem State.acquire_sel : (s.acquire).sel = s.sel := rfl
@[simp] theorem State.acquire_rst : (s.acquire).rst = s.rst := rfl
@[simp] theorem State.acquire_txdr : (s.acquire).txdr = s.txdr := rfl
@[simp] theorem State.acquire_presc : (s.acquire).presc = s.presc := rfl
@[simp] theorem State.acquire_evt : (s.acquire).evt = s.evt := rfl
@[simp] theorem State.acquire_evtValid : (s.acquire).evtValid = s.evtValid := rfl
@[simp] theorem State.acquire_seq : (s.acquire).seq = s.seq := rfl
@[simp] theorem State.acquire_op : (s.acquire).op = s.op := rfl
@[simp] theorem State.acquire_cmd : (s.acquire).cmd = s.cmd := rfl
@[simp] theorem State.acquire_addr : (s.acquire).addr = s.addr := rfl
@[simp] theorem State.acquire_off : (s.acquire).off = s.off := rfl
@[simp] theorem State.acquire_cnt : (s.acquire).cnt = s.cnt := rfl
@[simp] theorem State.acquire_txBuf : (s.acquire).txBuf = s.txBuf := rfl
@[simp] theorem State.acquire_rxBuf : (s.acquire).rxBuf = s.rxBuf := rfl
@[simp] theorem State.acquire_callFailed : (s.acquire).callFailed = false := rfl
@[simp] theorem State.acquire_dActive : (s.acquire).dActive = s.dActive := rfl
@[simp] theorem State.acquire_dStat : (s.acquire).dStat = s.dStat := rfl
@[simp] theorem State.acquire_dWord : (s.acquire).dWord = s.dWord := rfl
@[simp] theorem State.acquire_dCursor : (s.acquire).dCursor = s.dCursor := rfl
@[simp] theorem State.acquire_count : (s.acquire).count = s.count := rfl
@[simp] theorem State.acquire_refused : (s.acquire).refused = s.refused := rfl
@[simp] theorem State.acquire_par : (s.acquire).par = s.par := rfl
@[simp] theorem State.acquire_port : (s.acquire).port = s.port := rfl
@[simp] theorem State.acquire_asking : (s.acquire).asking = s.asking := rfl
@[simp] theorem State.acquire_client : (s.acquire).client = s.client := rfl
@[simp] theorem State.acquire_dClient : (s.acquire).dClient = s.dClient := rfl
@[simp] theorem State.acquire_env : (s.acquire).env = s.env := rfl
@[simp] theorem State.acquire_drawn : (s.acquire).drawn = s.drawn := rfl
@[simp] theorem State.acquire_trace : (s.acquire).trace = s.trace := rfl

/-! ### State.unlock -/

@[simp] theorem State.unlock_state : (s.unlock).state = .ready := rfl
@[simp] theorem State.unlock_errorCode : (s.unlock).errorCode = s.errorCode := rfl
@[simp] theorem State.unlock_deepSleep : (s.unlock).deepSleep = s.deepSleep := rfl
@[simp] theorem State.unlock_lockHeld : (s.unlock).lockHeld = false := rfl
@[simp] theorem State.unlock_baudPrescaler : (s.unlock).baudPrescaler = s.baudPrescaler := rfl
@[simp] theorem State.unlock_busEnabled : (s.unlock).busEnabled = s.busEnabled := rfl
@[simp] theorem State.unlock_sel : (s.unlock).sel = s.sel := rfl
@[simp] theorem State.unlock_rst : (s.unlock).rst = s.rst := rfl
@[simp] theorem State.unlock_txdr : (s.unlock).txdr = s.txdr := rfl
@[simp] theorem State.unlock_presc : (s.unlock).presc = s.presc := rfl
@[simp] theorem State.unlock_evt : (s.unlock).evt = s.evt := rfl
@[simp] theorem State.unlock_evtValid : (s.unlock).evtValid = s.evtValid := rfl
@[simp] theorem State.unlock_seq : (s.unlock).seq = s.seq := rfl
@[simp] theorem State.unlock_op : (s.unlock).op = s.op := rfl
@[simp] theorem State.unlock_cmd : (s.unlock).cmd = s.cmd := rfl
@[simp] theorem State.unlock_addr : (s.unlock).addr = s.addr := rfl
@[simp] theorem State.unlock_off : (s.unlock).off = s.off := rfl
@[simp] theorem State.unlock_cnt : (s.unlock).cnt = s.cnt := rfl
@[simp] theorem State.unlock_txBuf : (s.unlock).txBuf = s.txBuf := rfl
@[simp] theorem State.unlock_rxBuf : (s.unlock).rxBuf = s.rxBuf := rfl
@[simp] theorem State.unlock_callFailed : (s.unlock).callFailed = s.callFailed := rfl
@[simp] theorem State.unlock_dActive : (s.unlock).dActive = s.dActive := rfl
@[simp] theorem State.unlock_dStat : (s.unlock).dStat = s.dStat := rfl
@[simp] theorem State.unlock_dWord : (s.unlock).dWord = s.dWord := rfl
@[simp] theorem State.unlock_dCursor : (s.unlock).dCursor = s.dCursor := rfl
@[simp] theorem State.unlock_count : (s.unlock).count = s.count := rfl
@[simp] theorem State.unlock_refused : (s.unlock).refused = s.refused := rfl
@[simp] theorem State.unlock_par : (s.unlock).par = s.par := rfl
@[simp] theorem State.unlock_port : (s.unlock).port = s.port := rfl
@[simp] theorem State.unlock_asking : (s.unlock).asking = s.asking := rfl
@[simp] theorem State.unlock_client : (s.unlock).client = s.client := rfl
@[simp] theorem State.unlock_dClient : (s.unlock).dClient = s.dClient := rfl
@[simp] theorem State.unlock_env : (s.unlock).env = s.env := rfl
@[simp] theorem State.unlock_drawn : (s.unlock).drawn = s.drawn := rfl
@[simp] theorem State.unlock_trace : (s.unlock).trace = s.trace := rfl

/-! ### State.serving -/

@[simp] theorem State.serving_state (r : Request) (rest : List Request) : (s.serving r rest).state = s.state := rfl
@[simp] theorem State.serving_errorCode (r : Request) (rest : List Request) : (s.serving r rest).errorCode = s.errorCode := rfl
@[simp] theorem State.serving_deepSleep (r : Request) (rest : List Request) : (s.serving r rest).deepSleep = s.deepSleep := rfl
@[simp] theorem State.serving_lockHeld (r : Request) (rest : List Request) : (s.serving r rest).lockHeld = s.lockHeld := rfl
@[simp] theorem State.serving_baudPrescaler (r : Request) (rest : List Request) : (s.serving r rest).baudPrescaler = s.baudPrescaler := rfl
@[simp] theorem State.serving_busEnabled (r : Request) (rest : List Request) : (s.serving r rest).busEnabled = s.busEnabled := rfl
@[simp] theorem State.serving_sel (r : Request) (rest : List Request) : (s.serving r rest).sel = s.sel := rfl
@[simp] theorem State.serving_rst (r : Request) (rest : List Request) : (s.serving r rest).rst = s.rst := rfl
@[simp] theorem State.serving_txdr (r : Request) (rest : List Request) : (s.serving r rest).txdr = s.txdr := rfl
@[simp] theorem State.serving_presc (r : Request) (rest : List Request) : (s.serving r rest).presc = s.presc := rfl
@[simp] theorem State.serving_evt (r : Request) (rest : List Request) : (s.serving r rest).evt = s.evt := rfl
@[simp] theorem State.serving_evtValid (r : Request) (rest : List Request) : (s.serving r rest).evtValid = s.evtValid := rfl
@[simp] theorem State.serving_seq (r : Request) (rest : List Request) : (s.serving r rest).seq = s.seq := rfl
@[simp] theorem State.serving_op (r : Request) (rest : List Request) : (s.serving r rest).op = s.op := rfl
@[simp] theorem State.serving_cmd (r : Request) (rest : List Request) : (s.serving r rest).cmd = s.cmd := rfl
@[simp] theorem State.serving_addr (r : Request) (rest : List Request) : (s.serving r rest).addr = s.addr := rfl
@[simp] theorem State.serving_off (r : Request) (rest : List Request) : (s.serving r rest).off = s.off := rfl
@[simp] theorem State.serving_cnt (r : Request) (rest : List Request) : (s.serving r rest).cnt = s.cnt := rfl
@[simp] theorem State.serving_txBuf (r : Request) (rest : List Request) : (s.serving r rest).txBuf = s.txBuf := rfl
@[simp] theorem State.serving_rxBuf (r : Request) (rest : List Request) : (s.serving r rest).rxBuf = s.rxBuf := rfl
@[simp] theorem State.serving_callFailed (r : Request) (rest : List Request) : (s.serving r rest).callFailed = s.callFailed := rfl
@[simp] theorem State.serving_dActive (r : Request) (rest : List Request) : (s.serving r rest).dActive = s.dActive := rfl
@[simp] theorem State.serving_dStat (r : Request) (rest : List Request) : (s.serving r rest).dStat = s.dStat := rfl
@[simp] theorem State.serving_dWord (r : Request) (rest : List Request) : (s.serving r rest).dWord = s.dWord := rfl
@[simp] theorem State.serving_dCursor (r : Request) (rest : List Request) : (s.serving r rest).dCursor = s.dCursor := rfl
@[simp] theorem State.serving_count (r : Request) (rest : List Request) : (s.serving r rest).count = s.count := rfl
@[simp] theorem State.serving_refused (r : Request) (rest : List Request) : (s.serving r rest).refused = s.refused := rfl
@[simp] theorem State.serving_par (r : Request) (rest : List Request) : (s.serving r rest).par = s.par := rfl
@[simp] theorem State.serving_port (r : Request) (rest : List Request) : (s.serving r rest).port = rest := rfl
@[simp] theorem State.serving_asking (r : Request) (rest : List Request) : (s.serving r rest).asking = r.who := rfl
@[simp] theorem State.serving_client (r : Request) (rest : List Request) : (s.serving r rest).client = s.client := rfl
@[simp] theorem State.serving_dClient (r : Request) (rest : List Request) : (s.serving r rest).dClient = s.dClient := rfl
@[simp] theorem State.serving_env (r : Request) (rest : List Request) : (s.serving r rest).env = s.env := rfl
@[simp] theorem State.serving_drawn (r : Request) (rest : List Request) : (s.serving r rest).drawn = s.drawn := rfl
@[simp] theorem State.serving_trace (r : Request) (rest : List Request) : (s.serving r rest).trace = s.trace := rfl

/-! ### State.refuse -/

@[simp] theorem State.refuse_state : (s.refuse).state = s.state := rfl
@[simp] theorem State.refuse_errorCode : (s.refuse).errorCode = s.errorCode := rfl
@[simp] theorem State.refuse_deepSleep : (s.refuse).deepSleep = s.deepSleep := rfl
@[simp] theorem State.refuse_lockHeld : (s.refuse).lockHeld = s.lockHeld := rfl
@[simp] theorem State.refuse_baudPrescaler : (s.refuse).baudPrescaler = s.baudPrescaler := rfl
@[simp] theorem State.refuse_busEnabled : (s.refuse).busEnabled = s.busEnabled := rfl
@[simp] theorem State.refuse_sel : (s.refuse).sel = s.sel := rfl
@[simp] theorem State.refuse_rst : (s.refuse).rst = s.rst := rfl
@[simp] theorem State.refuse_txdr : (s.refuse).txdr = s.txdr := rfl
@[simp] theorem State.refuse_presc : (s.refuse).presc = s.presc := rfl
@[simp] theorem State.refuse_evt : (s.refuse).evt = s.evt := rfl
@[simp] theorem State.refuse_evtValid : (s.refuse).evtValid = s.evtValid := rfl
@[simp] theorem State.refuse_seq : (s.refuse).seq = s.seq := rfl
@[simp] theorem State.refuse_op : (s.refuse).op = s.op := rfl
@[simp] theorem State.refuse_cmd : (s.refuse).cmd = s.cmd := rfl
@[simp] theorem State.refuse_addr : (s.refuse).addr = s.addr := rfl
@[simp] theorem State.refuse_off : (s.refuse).off = s.off := rfl
@[simp] theorem State.refuse_cnt : (s.refuse).cnt = s.cnt := rfl
@[simp] theorem State.refuse_txBuf : (s.refuse).txBuf = s.txBuf := rfl
@[simp] theorem State.refuse_rxBuf : (s.refuse).rxBuf = s.rxBuf := rfl
@[simp] theorem State.refuse_callFailed : (s.refuse).callFailed = s.callFailed := rfl
@[simp] theorem State.refuse_dActive : (s.refuse).dActive = s.dActive := rfl
@[simp] theorem State.refuse_dStat : (s.refuse).dStat = s.dStat := rfl
@[simp] theorem State.refuse_dWord : (s.refuse).dWord = s.dWord := rfl
@[simp] theorem State.refuse_dCursor : (s.refuse).dCursor = s.dCursor := rfl
@[simp] theorem State.refuse_count : (s.refuse).count = s.count := rfl
@[simp] theorem State.refuse_refused : (s.refuse).refused = true := rfl
@[simp] theorem State.refuse_par : (s.refuse).par = s.par := rfl
@[simp] theorem State.refuse_port : (s.refuse).port = s.port := rfl
@[simp] theorem State.refuse_asking : (s.refuse).asking = s.asking := rfl
@[simp] theorem State.refuse_client : (s.refuse).client = s.client := rfl
@[simp] theorem State.refuse_dClient : (s.refuse).dClient = s.dClient := rfl
@[simp] theorem State.refuse_env : (s.refuse).env = s.env := rfl
@[simp] theorem State.refuse_drawn : (s.refuse).drawn = s.drawn := rfl
@[simp] theorem State.refuse_trace : (s.refuse).trace = s.trace := rfl

/-! ### loadRegisterOperands -/

@[simp] theorem loadRegisterOperands_state (o : OpSel) (a n : BitVec 16) (tx : List Byte) : (loadRegisterOperands o a n tx s).state = s.state := rfl
@[simp] theorem loadRegisterOperands_errorCode (o : OpSel) (a n : BitVec 16) (tx : List Byte) : (loadRegisterOperands o a n tx s).errorCode = s.errorCode := rfl
@[simp] theorem loadRegisterOperands_deepSleep (o : OpSel) (a n : BitVec 16) (tx : List Byte) : (loadRegisterOperands o a n tx s).deepSleep = s.deepSleep := rfl
@[simp] theorem loadRegisterOperands_lockHeld (o : OpSel) (a n : BitVec 16) (tx : List Byte) : (loadRegisterOperands o a n tx s).lockHeld = s.lockHeld := rfl
@[simp] theorem loadRegisterOperands_baudPrescaler (o : OpSel) (a n : BitVec 16) (tx : List Byte) : (loadRegisterOperands o a n tx s).baudPrescaler = s.baudPrescaler := rfl
@[simp] theorem loadRegisterOperands_busEnabled (o : OpSel) (a n : BitVec 16) (tx : List Byte) : (loadRegisterOperands o a n tx s).busEnabled = s.busEnabled := rfl
@[simp] theorem loadRegisterOperands_sel (o : OpSel) (a n : BitVec 16) (tx : List Byte) : (loadRegisterOperands o a n tx s).sel = s.sel := rfl
@[simp] theorem loadRegisterOperands_rst (o : OpSel) (a n : BitVec 16) (tx : List Byte) : (loadRegisterOperands o a n tx s).rst = s.rst := rfl
@[simp] theorem loadRegisterOperands_txdr (o : OpSel) (a n : BitVec 16) (tx : List Byte) : (loadRegisterOperands o a n tx s).txdr = s.txdr := rfl
@[simp] theorem loadRegisterOperands_presc (o : OpSel) (a n : BitVec 16) (tx : List Byte) : (loadRegisterOperands o a n tx s).presc = s.presc := rfl
@[simp] theorem loadRegisterOperands_evt (o : OpSel) (a n : BitVec 16) (tx : List Byte) : (loadRegisterOperands o a n tx s).evt = s.evt := rfl
@[simp] theorem loadRegisterOperands_evtValid (o : OpSel) (a n : BitVec 16) (tx : List Byte) : (loadRegisterOperands o a n tx s).evtValid = s.evtValid := rfl
@[simp] theorem loadRegisterOperands_seq (o : OpSel) (a n : BitVec 16) (tx : List Byte) : (loadRegisterOperands o a n tx s).seq = s.seq := rfl
@[simp] theorem loadRegisterOperands_op (o : OpSel) (a n : BitVec 16) (tx : List Byte) : (loadRegisterOperands o a n tx s).op = o := rfl
@[simp] theorem loadRegisterOperands_cmd (o : OpSel) (a n : BitVec 16) (tx : List Byte) : (loadRegisterOperands o a n tx s).cmd = s.cmd := rfl
@[simp] theorem loadRegisterOperands_addr (o : OpSel) (a n : BitVec 16) (tx : List Byte) : (loadRegisterOperands o a n tx s).addr = a := rfl
@[simp] theorem loadRegisterOperands_off (o : OpSel) (a n : BitVec 16) (tx : List Byte) : (loadRegisterOperands o a n tx s).off = s.off := rfl
@[simp] theorem loadRegisterOperands_cnt (o : OpSel) (a n : BitVec 16) (tx : List Byte) : (loadRegisterOperands o a n tx s).cnt = n := rfl
@[simp] theorem loadRegisterOperands_txBuf (o : OpSel) (a n : BitVec 16) (tx : List Byte) : (loadRegisterOperands o a n tx s).txBuf = tx := rfl
@[simp] theorem loadRegisterOperands_rxBuf (o : OpSel) (a n : BitVec 16) (tx : List Byte) : (loadRegisterOperands o a n tx s).rxBuf = [] := rfl
@[simp] theorem loadRegisterOperands_callFailed (o : OpSel) (a n : BitVec 16) (tx : List Byte) : (loadRegisterOperands o a n tx s).callFailed = s.callFailed := rfl
@[simp] theorem loadRegisterOperands_dActive (o : OpSel) (a n : BitVec 16) (tx : List Byte) : (loadRegisterOperands o a n tx s).dActive = s.dActive := rfl
@[simp] theorem loadRegisterOperands_dStat (o : OpSel) (a n : BitVec 16) (tx : List Byte) : (loadRegisterOperands o a n tx s).dStat = s.dStat := rfl
@[simp] theorem loadRegisterOperands_dWord (o : OpSel) (a n : BitVec 16) (tx : List Byte) : (loadRegisterOperands o a n tx s).dWord = s.dWord := rfl
@[simp] theorem loadRegisterOperands_dCursor (o : OpSel) (a n : BitVec 16) (tx : List Byte) : (loadRegisterOperands o a n tx s).dCursor = s.dCursor := rfl
@[simp] theorem loadRegisterOperands_count (o : OpSel) (a n : BitVec 16) (tx : List Byte) : (loadRegisterOperands o a n tx s).count = s.count := rfl
@[simp] theorem loadRegisterOperands_refused (o : OpSel) (a n : BitVec 16) (tx : List Byte) : (loadRegisterOperands o a n tx s).refused = s.refused := rfl
@[simp] theorem loadRegisterOperands_par (o : OpSel) (a n : BitVec 16) (tx : List Byte) : (loadRegisterOperands o a n tx s).par = s.par := rfl
@[simp] theorem loadRegisterOperands_port (o : OpSel) (a n : BitVec 16) (tx : List Byte) : (loadRegisterOperands o a n tx s).port = s.port := rfl
@[simp] theorem loadRegisterOperands_asking (o : OpSel) (a n : BitVec 16) (tx : List Byte) : (loadRegisterOperands o a n tx s).asking = s.asking := rfl
@[simp] theorem loadRegisterOperands_client (o : OpSel) (a n : BitVec 16) (tx : List Byte) : (loadRegisterOperands o a n tx s).client = s.client := rfl
@[simp] theorem loadRegisterOperands_dClient (o : OpSel) (a n : BitVec 16) (tx : List Byte) : (loadRegisterOperands o a n tx s).dClient = s.dClient := rfl
@[simp] theorem loadRegisterOperands_env (o : OpSel) (a n : BitVec 16) (tx : List Byte) : (loadRegisterOperands o a n tx s).env = s.env := rfl
@[simp] theorem loadRegisterOperands_drawn (o : OpSel) (a n : BitVec 16) (tx : List Byte) : (loadRegisterOperands o a n tx s).drawn = s.drawn := rfl
@[simp] theorem loadRegisterOperands_trace (o : OpSel) (a n : BitVec 16) (tx : List Byte) : (loadRegisterOperands o a n tx s).trace = s.trace := rfl

/-! ### loadCommandOperands -/

@[simp] theorem loadCommandOperands_state (o : OpSel) (c : Byte) (n : BitVec 16) (tx : List Byte) : (loadCommandOperands o c n tx s).state = s.state := rfl
@[simp] theorem loadCommandOperands_errorCode (o : OpSel) (c : Byte) (n : BitVec 16) (tx : List Byte) : (loadCommandOperands o c n tx s).errorCode = s.errorCode := rfl
@[simp] theorem loadCommandOperands_deepSleep (o : OpSel) (c : Byte) (n : BitVec 16) (tx : List Byte) : (loadCommandOperands o c n tx s).deepSleep = s.deepSleep := rfl
@[simp] theorem loadCommandOperands_lockHeld (o : OpSel) (c : Byte) (n : BitVec 16) (tx : List Byte) : (loadCommandOperands o c n tx s).lockHeld = s.lockHeld := rfl
@[simp] theorem loadCommandOperands_baudPrescaler (o : OpSel) (c : Byte) (n : BitVec 16) (tx : List Byte) : (loadCommandOperands o c n tx s).baudPrescaler = s.baudPrescaler := rfl
@[simp] theorem loadCommandOperands_busEnabled (o : OpSel) (c : Byte) (n : BitVec 16) (tx : List Byte) : (loadCommandOperands o c n tx s).busEnabled = s.busEnabled := rfl
@[simp] theorem loadCommandOperands_sel (o : OpSel) (c : Byte) (n : BitVec 16) (tx : List Byte) : (loadCommandOperands o c n tx s).sel = s.sel := rfl
@[simp] theorem loadCommandOperands_rst (o : OpSel) (c : Byte) (n : BitVec 16) (tx : List Byte) : (loadCommandOperands o c n tx s).rst = s.rst := rfl
@[simp] theorem loadCommandOperands_txdr (o : OpSel) (c : Byte) (n : BitVec 16) (tx : List Byte) : (loadCommandOperands o c n tx s).txdr = s.txdr := rfl
@[simp] theorem loadCommandOperands_presc (o : OpSel) (c : Byte) (n : BitVec 16) (tx : List Byte) : (loadCommandOperands o c n tx s).presc = s.presc := rfl
@[simp] theorem loadCommandOperands_evt (o : OpSel) (c : Byte) (n : BitVec 16) (tx : List Byte) : (loadCommandOperands o c n tx s).evt = s.evt := rfl
@[simp] theorem loadCommandOperands_evtValid (o : OpSel) (c : Byte) (n : BitVec 16) (tx : List Byte) : (loadCommandOperands o c n tx s).evtValid = s.evtValid := rfl
@[simp] theorem loadCommandOperands_seq (o : OpSel) (c : Byte) (n : BitVec 16) (tx : List Byte) : (loadCommandOperands o c n tx s).seq = s.seq := rfl
@[simp] theorem loadCommandOperands_op (o : OpSel) (c : Byte) (n : BitVec 16) (tx : List Byte) : (loadCommandOperands o c n tx s).op = o := rfl
@[simp] theorem loadCommandOperands_cmd (o : OpSel) (c : Byte) (n : BitVec 16) (tx : List Byte) : (loadCommandOperands o c n tx s).cmd = c := rfl
@[simp] theorem loadCommandOperands_addr (o : OpSel) (c : Byte) (n : BitVec 16) (tx : List Byte) : (loadCommandOperands o c n tx s).addr = s.addr := rfl
@[simp] theorem loadCommandOperands_off (o : OpSel) (c : Byte) (n : BitVec 16) (tx : List Byte) : (loadCommandOperands o c n tx s).off = s.off := rfl
@[simp] theorem loadCommandOperands_cnt (o : OpSel) (c : Byte) (n : BitVec 16) (tx : List Byte) : (loadCommandOperands o c n tx s).cnt = n := rfl
@[simp] theorem loadCommandOperands_txBuf (o : OpSel) (c : Byte) (n : BitVec 16) (tx : List Byte) : (loadCommandOperands o c n tx s).txBuf = tx := rfl
@[simp] theorem loadCommandOperands_rxBuf (o : OpSel) (c : Byte) (n : BitVec 16) (tx : List Byte) : (loadCommandOperands o c n tx s).rxBuf = [] := rfl
@[simp] theorem loadCommandOperands_callFailed (o : OpSel) (c : Byte) (n : BitVec 16) (tx : List Byte) : (loadCommandOperands o c n tx s).callFailed = s.callFailed := rfl
@[simp] theorem loadCommandOperands_dActive (o : OpSel) (c : Byte) (n : BitVec 16) (tx : List Byte) : (loadCommandOperands o c n tx s).dActive = s.dActive := rfl
@[simp] theorem loadCommandOperands_dStat (o : OpSel) (c : Byte) (n : BitVec 16) (tx : List Byte) : (loadCommandOperands o c n tx s).dStat = s.dStat := rfl
@[simp] theorem loadCommandOperands_dWord (o : OpSel) (c : Byte) (n : BitVec 16) (tx : List Byte) : (loadCommandOperands o c n tx s).dWord = s.dWord := rfl
@[simp] theorem loadCommandOperands_dCursor (o : OpSel) (c : Byte) (n : BitVec 16) (tx : List Byte) : (loadCommandOperands o c n tx s).dCursor = s.dCursor := rfl
@[simp] theorem loadCommandOperands_count (o : OpSel) (c : Byte) (n : BitVec 16) (tx : List Byte) : (loadCommandOperands o c n tx s).count = s.count := rfl
@[simp] theorem loadCommandOperands_refused (o : OpSel) (c : Byte) (n : BitVec 16) (tx : List Byte) : (loadCommandOperands o c n tx s).refused = s.refused := rfl
@[simp] theorem loadCommandOperands_par (o : OpSel) (c : Byte) (n : BitVec 16) (tx : List Byte) : (loadCommandOperands o c n tx s).par = s.par := rfl
@[simp] theorem loadCommandOperands_port (o : OpSel) (c : Byte) (n : BitVec 16) (tx : List Byte) : (loadCommandOperands o c n tx s).port = s.port := rfl
@[simp] theorem loadCommandOperands_asking (o : OpSel) (c : Byte) (n : BitVec 16) (tx : List Byte) : (loadCommandOperands o c n tx s).asking = s.asking := rfl
@[simp] theorem loadCommandOperands_client (o : OpSel) (c : Byte) (n : BitVec 16) (tx : List Byte) : (loadCommandOperands o c n tx s).client = s.client := rfl
@[simp] theorem loadCommandOperands_dClient (o : OpSel) (c : Byte) (n : BitVec 16) (tx : List Byte) : (loadCommandOperands o c n tx s).dClient = s.dClient := rfl
@[simp] theorem loadCommandOperands_env (o : OpSel) (c : Byte) (n : BitVec 16) (tx : List Byte) : (loadCommandOperands o c n tx s).env = s.env := rfl
@[simp] theorem loadCommandOperands_drawn (o : OpSel) (c : Byte) (n : BitVec 16) (tx : List Byte) : (loadCommandOperands o c n tx s).drawn = s.drawn := rfl
@[simp] theorem loadCommandOperands_trace (o : OpSel) (c : Byte) (n : BitVec 16) (tx : List Byte) : (loadCommandOperands o c n tx s).trace = s.trace := rfl

/-! ### loadBufferOperands -/

@[simp] theorem loadBufferOperands_state (o : OpSel) (f : Byte) (n : BitVec 16) (tx : List Byte) : (loadBufferOperands o f n tx s).state = s.state := rfl
@[simp] theorem loadBufferOperands_errorCode (o : OpSel) (f : Byte) (n : BitVec 16) (tx : List Byte) : (loadBufferOperands o f n tx s).errorCode = s.errorCode := rfl
@[simp] theorem loadBufferOperands_deepSleep (o : OpSel) (f : Byte) (n : BitVec 16) (tx : List Byte) : (loadBufferOperands o f n tx s).deepSleep = s.deepSleep := rfl
@[simp] theorem loadBufferOperands_lockHeld (o : OpSel) (f : Byte) (n : BitVec 16) (tx : List Byte) : (loadBufferOperands o f n tx s).lockHeld = s.lockHeld := rfl
@[simp] theorem loadBufferOperands_baudPrescaler (o : OpSel) (f : Byte) (n : BitVec 16) (tx : List Byte) : (loadBufferOperands o f n tx s).baudPrescaler = s.baudPrescaler := rfl
@[simp] theorem loadBufferOperands_busEnabled (o : OpSel) (f : Byte) (n : BitVec 16) (tx : List Byte) : (loadBufferOperands o f n tx s).busEnabled = s.busEnabled := rfl
@[simp] theorem loadBufferOperands_sel (o : OpSel) (f : Byte) (n : BitVec 16) (tx : List Byte) : (loadBufferOperands o f n tx s).sel = s.sel := rfl
@[simp] theorem loadBufferOperands_rst (o : OpSel) (f : Byte) (n : BitVec 16) (tx : List Byte) : (loadBufferOperands o f n tx s).rst = s.rst := rfl
@[simp] theorem loadBufferOperands_txdr (o : OpSel) (f : Byte) (n : BitVec 16) (tx : List Byte) : (loadBufferOperands o f n tx s).txdr = s.txdr := rfl
@[simp] theorem loadBufferOperands_presc (o : OpSel) (f : Byte) (n : BitVec 16) (tx : List Byte) : (loadBufferOperands o f n tx s).presc = s.presc := rfl
@[simp] theorem loadBufferOperands_evt (o : OpSel) (f : Byte) (n : BitVec 16) (tx : List Byte) : (loadBufferOperands o f n tx s).evt = s.evt := rfl
@[simp] theorem loadBufferOperands_evtValid (o : OpSel) (f : Byte) (n : BitVec 16) (tx : List Byte) : (loadBufferOperands o f n tx s).evtValid = s.evtValid := rfl
@[simp] theorem loadBufferOperands_seq (o : OpSel) (f : Byte) (n : BitVec 16) (tx : List Byte) : (loadBufferOperands o f n tx s).seq = s.seq := rfl
@[simp] theorem loadBufferOperands_op (o : OpSel) (f : Byte) (n : BitVec 16) (tx : List Byte) : (loadBufferOperands o f n tx s).op = o := rfl
@[simp] theorem loadBufferOperands_cmd (o : OpSel) (f : Byte) (n : BitVec 16) (tx : List Byte) : (loadBufferOperands o f n tx s).cmd = s.cmd := rfl
@[simp] theorem loadBufferOperands_addr (o : OpSel) (f : Byte) (n : BitVec 16) (tx : List Byte) : (loadBufferOperands o f n tx s).addr = s.addr := rfl
@[simp] theorem loadBufferOperands_off (o : OpSel) (f : Byte) (n : BitVec 16) (tx : List Byte) : (loadBufferOperands o f n tx s).off = f := rfl
@[simp] theorem loadBufferOperands_cnt (o : OpSel) (f : Byte) (n : BitVec 16) (tx : List Byte) : (loadBufferOperands o f n tx s).cnt = n := rfl
@[simp] theorem loadBufferOperands_txBuf (o : OpSel) (f : Byte) (n : BitVec 16) (tx : List Byte) : (loadBufferOperands o f n tx s).txBuf = tx := rfl
@[simp] theorem loadBufferOperands_rxBuf (o : OpSel) (f : Byte) (n : BitVec 16) (tx : List Byte) : (loadBufferOperands o f n tx s).rxBuf = [] := rfl
@[simp] theorem loadBufferOperands_callFailed (o : OpSel) (f : Byte) (n : BitVec 16) (tx : List Byte) : (loadBufferOperands o f n tx s).callFailed = s.callFailed := rfl
@[simp] theorem loadBufferOperands_dActive (o : OpSel) (f : Byte) (n : BitVec 16) (tx : List Byte) : (loadBufferOperands o f n tx s).dActive = s.dActive := rfl
@[simp] theorem loadBufferOperands_dStat (o : OpSel) (f : Byte) (n : BitVec 16) (tx : List Byte) : (loadBufferOperands o f n tx s).dStat = s.dStat := rfl
@[simp] theorem loadBufferOperands_dWord (o : OpSel) (f : Byte) (n : BitVec 16) (tx : List Byte) : (loadBufferOperands o f n tx s).dWord = s.dWord := rfl
@[simp] theorem loadBufferOperands_dCursor (o : OpSel) (f : Byte) (n : BitVec 16) (tx : List Byte) : (loadBufferOperands o f n tx s).dCursor = s.dCursor := rfl
@[simp] theorem loadBufferOperands_count (o : OpSel) (f : Byte) (n : BitVec 16) (tx : List Byte) : (loadBufferOperands o f n tx s).count = s.count := rfl
@[simp] theorem loadBufferOperands_refused (o : OpSel) (f : Byte) (n : BitVec 16) (tx : List Byte) : (loadBufferOperands o f n tx s).refused = s.refused := rfl
@[simp] theorem loadBufferOperands_par (o : OpSel) (f : Byte) (n : BitVec 16) (tx : List Byte) : (loadBufferOperands o f n tx s).par = s.par := rfl
@[simp] theorem loadBufferOperands_port (o : OpSel) (f : Byte) (n : BitVec 16) (tx : List Byte) : (loadBufferOperands o f n tx s).port = s.port := rfl
@[simp] theorem loadBufferOperands_asking (o : OpSel) (f : Byte) (n : BitVec 16) (tx : List Byte) : (loadBufferOperands o f n tx s).asking = s.asking := rfl
@[simp] theorem loadBufferOperands_client (o : OpSel) (f : Byte) (n : BitVec 16) (tx : List Byte) : (loadBufferOperands o f n tx s).client = s.client := rfl
@[simp] theorem loadBufferOperands_dClient (o : OpSel) (f : Byte) (n : BitVec 16) (tx : List Byte) : (loadBufferOperands o f n tx s).dClient = s.dClient := rfl
@[simp] theorem loadBufferOperands_env (o : OpSel) (f : Byte) (n : BitVec 16) (tx : List Byte) : (loadBufferOperands o f n tx s).env = s.env := rfl
@[simp] theorem loadBufferOperands_drawn (o : OpSel) (f : Byte) (n : BitVec 16) (tx : List Byte) : (loadBufferOperands o f n tx s).drawn = s.drawn := rfl
@[simp] theorem loadBufferOperands_trace (o : OpSel) (f : Byte) (n : BitVec 16) (tx : List Byte) : (loadBufferOperands o f n tx s).trace = s.trace := rfl

/-! ### deinitFinish -/

@[simp] theorem deinitFinish_state : (deinitFinish s).state = .uninitializedAfterReset := rfl
@[simp] theorem deinitFinish_errorCode : (deinitFinish s).errorCode = 0 := rfl
@[simp] theorem deinitFinish_deepSleep : (deinitFinish s).deepSleep = s.deepSleep := rfl
@[simp] theorem deinitFinish_lockHeld : (deinitFinish s).lockHeld = false := rfl
@[simp] theorem deinitFinish_baudPrescaler : (deinitFinish s).baudPrescaler = s.baudPrescaler := rfl
@[simp] theorem deinitFinish_busEnabled : (deinitFinish s).busEnabled = s.busEnabled := rfl
@[simp] theorem deinitFinish_sel : (deinitFinish s).sel = s.sel := rfl
@[simp] theorem deinitFinish_rst : (deinitFinish s).rst = s.rst := rfl
@[simp] theorem deinitFinish_txdr : (deinitFinish s).txdr = s.txdr := rfl
@[simp] theorem deinitFinish_presc : (deinitFinish s).presc = s.presc := rfl
@[simp] theorem deinitFinish_evt : (deinitFinish s).evt = s.evt := rfl
@[simp] theorem deinitFinish_evtValid : (deinitFinish s).evtValid = s.evtValid := rfl
@[simp] theorem deinitFinish_seq : (deinitFinish s).seq = s.seq := rfl
@[simp] theorem deinitFinish_op : (deinitFinish s).op = s.op := rfl
@[simp] theorem deinitFinish_cmd : (deinitFinish s).cmd = s.cmd := rfl
@[simp] theorem deinitFinish_addr : (deinitFinish s).addr = s.addr := rfl
@[simp] theorem deinitFinish_off : (deinitFinish s).off = s.off := rfl
@[simp] theorem deinitFinish_cnt : (deinitFinish s).cnt = s.cnt := rfl
@[simp] theorem deinitFinish_txBuf : (deinitFinish s).txBuf = s.txBuf := rfl
@[simp] theorem deinitFinish_rxBuf : (deinitFinish s).rxBuf = s.rxBuf := rfl
@[simp] theorem deinitFinish_callFailed : (deinitFinish s).callFailed = s.callFailed := rfl
@[simp] theorem deinitFinish_dActive : (deinitFinish s).dActive = s.dActive := rfl
@[simp] theorem deinitFinish_dStat : (deinitFinish s).dStat = s.dStat := rfl
@[simp] theorem deinitFinish_dWord : (deinitFinish s).dWord = s.dWord := rfl
@[simp] theorem deinitFinish_dCursor : (deinitFinish s).dCursor = s.dCursor := rfl
@[simp] theorem deinitFinish_count : (deinitFinish s).count = s.count := rfl
@[simp] theorem deinitFinish_refused : (deinitFinish s).refused = s.refused := rfl
@[simp] theorem deinitFinish_par : (deinitFinish s).par = s.par := rfl
@[simp] theorem deinitFinish_port : (deinitFinish s).port = s.port := rfl
@[simp] theorem deinitFinish_asking : (deinitFinish s).asking = s.asking := rfl
@[simp] theorem deinitFinish_client : (deinitFinish s).client = s.client := rfl
@[simp] theorem deinitFinish_dClient : (deinitFinish s).dClient = s.dClient := rfl
@[simp] theorem deinitFinish_env : (deinitFinish s).env = s.env := rfl
@[simp] theorem deinitFinish_drawn : (deinitFinish s).drawn = s.drawn := rfl
@[simp] theorem deinitFinish_trace : (deinitFinish s).trace = s.trace := rfl

/-! ### State.tick -/

@[simp] theorem State.tick_state : s.tick.state = s.state := by
  unfold State.tick; split <;> rfl
@[simp] theorem State.tick_errorCode : s.tick.errorCode = s.errorCode := by
  unfold State.tick; split <;> rfl
@[simp] theorem State.tick_deepSleep : s.tick.deepSleep = s.deepSleep := by
  unfold State.tick; split <;> rfl
@[simp] theorem State.tick_lockHeld : s.tick.lockHeld = s.lockHeld := by
  unfold State.tick; split <;> rfl
@[simp] theorem State.tick_baudPrescaler : s.tick.baudPrescaler = s.baudPrescaler := by
  unfold State.tick; split <;> rfl
@[simp] theorem State.tick_busEnabled : s.tick.busEnabled = s.busEnabled := by
  unfold State.tick; split <;> rfl
@[simp] theorem State.tick_sel : s.tick.sel = s.sel := by
  unfold State.tick; split <;> rfl
@[simp] theorem State.tick_rst : s.tick.rst = s.rst := by
  unfold State.tick; split <;> rfl
@[simp] theorem State.tick_txdr : s.tick.txdr = s.txdr := by
  unfold State.tick; split <;> rfl
@[simp] theorem State.tick_presc : s.tick.presc = s.presc := by
  unfold State.tick; split <;> rfl
@[simp] theorem State.tick_evt : s.tick.evt = s.evt := by
  unfold State.tick; split <;> rfl
@[simp] theorem State.tick_evtValid : s.tick.evtValid = s.evtValid := by
  unfold State.tick; split <;> rfl
@[simp] theorem State.tick_seq : s.tick.seq = s.seq := by
  unfold State.tick; split <;> rfl
@[simp] theorem State.tick_op : s.tick.op = s.op := by
  unfold State.tick; split <;> rfl
@[simp] theorem State.tick_cmd : s.tick.cmd = s.cmd := by
  unfold State.tick; split <;> rfl
@[simp] theorem State.tick_addr : s.tick.addr = s.addr := by
  unfold State.tick; split <;> rfl
@[simp] theorem State.tick_off : s.tick.off = s.off := by
  unfold State.tick; split <;> rfl
@[simp] theorem State.tick_cnt : s.tick.cnt = s.cnt := by
  unfold State.tick; split <;> rfl
@[simp] theorem State.tick_txBuf : s.tick.txBuf = s.txBuf := by
  unfold State.tick; split <;> rfl
@[simp] theorem State.tick_rxBuf : s.tick.rxBuf = s.rxBuf := by
  unfold State.tick; split <;> rfl
@[simp] theorem State.tick_callFailed : s.tick.callFailed = s.callFailed := by
  unfold State.tick; split <;> rfl
@[simp] theorem State.tick_dActive : s.tick.dActive = s.dActive := by
  unfold State.tick; split <;> rfl
@[simp] theorem State.tick_dStat : s.tick.dStat = s.dStat := by
  unfold State.tick; split <;> rfl
@[simp] theorem State.tick_dWord : s.tick.dWord = s.dWord := by
  unfold State.tick; split <;> rfl
@[simp] theorem State.tick_dCursor : s.tick.dCursor = s.dCursor := by
  unfold State.tick; split <;> rfl
@[simp] theorem State.tick_count : s.tick.count = s.count := by
  unfold State.tick; split <;> rfl
@[simp] theorem State.tick_refused : s.tick.refused = s.refused := by
  unfold State.tick; split <;> rfl
@[simp] theorem State.tick_par : s.tick.par = s.par := by
  unfold State.tick; split <;> rfl
@[simp] theorem State.tick_asking : s.tick.asking = s.asking := by
  unfold State.tick; split <;> rfl
@[simp] theorem State.tick_client : s.tick.client = s.client := by
  unfold State.tick; split <;> rfl
@[simp] theorem State.tick_dClient : s.tick.dClient = s.dClient := by
  unfold State.tick; split <;> rfl
@[simp] theorem State.tick_env : s.tick.env = s.env := by
  unfold State.tick; split <;> rfl
@[simp] theorem State.tick_drawn : s.tick.drawn = s.drawn := by
  unfold State.tick; split <;> rfl
@[simp] theorem State.tick_trace : s.tick.trace = s.trace := by
  unfold State.tick; split <;> rfl

/-- A controller step counts the next request's delay down and changes nothing else of the port. -/
theorem State.tick_port_nil (h : s.port = []) : s.tick = s := by
  unfold State.tick; rw [h]

end Sys2Proof.Machine
end

