-- ==== Sys2Proof/Laws/Ops.lean ====
section
/-! SUPPORT. What each shared operation can do, once each: the bounded wait, the start of a transaction, admission, the next
position of a frame, the next entry of the dispatch order, the masks. Later proofs cite these instead of unfolding. -/

namespace Sys2Proof.Machine

variable {s : State}

/-! ## Draws -/

theorem State.inputs_eq_inputsAt (s : State) : s.inputs = s.inputsAt 0 := by
  unfold State.inputs State.inputsAt
  cases s.env <;> simp

/-- After one read, the k-th next read is the one that was the (k+1)-th. -/
theorem State.inputsAt_of_read {t : State} (he : t.env = s.env.tail) (hd : t.drawn = s.drawn + 1) (k : Nat) :
    t.inputsAt k = s.inputsAt (k + 1) := by
  unfold State.inputsAt
  rw [he, hd]
  cases s.env with
  | nil => simp; congr 1; omega
  | cons v vs => simp; cases vs[k]? <;> simp; congr 1; omega

/-- Two states with the same inputs to come see the same reads. -/
theorem State.inputsAt_congr {t : State} (he : t.env = s.env) (hd : t.drawn = s.drawn) (k : Nat) :
    t.inputsAt k = s.inputsAt k := by
  unfold State.inputsAt
  rw [he, hd]

/-! ## The bounded wait (40_bus_primitive.md R100) -/

theorem pollStep_expired {pred k next} (h : s.count = 0) : s.pollStep pred k next = next (s.recordFault k) := by
  simp [State.pollStep, h]

theorem pollStep_holds {pred k next} (h : s.count ≠ 0) (hp : pred s.inputs = true) :
    s.pollStep pred k next = next ({ s.afterRead with count := s.count - 1 }.log (.sample s.inputs)) := by
  simp [State.pollStep, h, hp]

theorem pollStep_waits {pred k next} (h : s.count ≠ 0) (hp : pred s.inputs = false) :
    s.pollStep pred k next = { s.afterRead with count := s.count - 1 }.log (.sample s.inputs) := by
  simp [State.pollStep, h, hp]

/-- Everything a step of a bounded wait can do: it goes on with the fault recorded, goes on after a sample, or stays. -/
theorem pollStep_cases (pred : Inputs → Bool) (k : FaultKind) (next : State → State) (s : State) :
    (s.count = 0 ∧ s.pollStep pred k next = next (s.recordFault k)) ∨
    (s.count ≠ 0 ∧ pred s.inputs = true ∧
      s.pollStep pred k next = next ({ s.afterRead with count := s.count - 1 }.log (.sample s.inputs))) ∨
    (s.count ≠ 0 ∧ pred s.inputs = false ∧
      s.pollStep pred k next = { s.afterRead with count := s.count - 1 }.log (.sample s.inputs)) := by
  by_cases h : s.count = 0
  · exact .inl ⟨h, pollStep_expired h⟩
  · cases hp : pred s.inputs
    · exact .inr (.inr ⟨h, rfl, pollStep_waits h hp⟩)
    · exact .inr (.inl ⟨h, rfl, pollStep_holds h hp⟩)

/-! ## Transactions -/

theorem State.admits_iff : s.admits = true ↔ s.state = .ready ∧ s.lockHeld = false := by
  simp [State.admits]

theorem State.admits_false_iff : s.admits = false ↔ s.state ≠ .ready ∨ s.lockHeld = true := by
  rw [← Bool.not_eq_true, State.admits_iff]
  cases s.lockHeld <;> simp

/-- The start of a transaction: the wake toggle if H.deepSleep = 1, else the gate (R107, R108). -/
theorem startTxn_cases (o : Owner) (s : State) :
    (s.deepSleep = true ∧ s.startTxn o = s.goTo (.txn o .wakeSel)) ∨
    (s.deepSleep = false ∧ s.startTxn o = s.goWait (.txn o .startGate)) := by
  unfold State.startTxn
  cases s.deepSleep <;> simp

theorem admission_admitted {load : State → State} (h : s.admits = true) :
    admission load s = .next (({ load s.acquire with client := s.asking }).startTxn (.requester s.seq.resume)) := by
  simp [admission, h]

theorem admission_busy {load : State → State} (h : s.admits = false) :
    admission load s = .next (s.respond s.asking (.result .busy [])) := by
  simp [admission, h]

theorem nextPosition_lt {o j} (h : j < frameLength s) : nextPosition o j s = s.goWait (.txn o (.txe j)) := by
  simp [nextPosition, h]

theorem nextPosition_ge {o j} (h : ¬ j < frameLength s) : nextPosition o j s = s.goTo (.txn o .frameDesel) := by
  simp [nextPosition, h]

/-- Everything the next position can do. -/
theorem nextPosition_cases (o : Owner) (j : Nat) (s : State) :
    (j < frameLength s ∧ nextPosition o j s = s.goWait (.txn o (.txe j))) ∨
    (¬ j < frameLength s ∧ nextPosition o j s = s.goTo (.txn o .frameDesel)) := by
  by_cases h : j < frameLength s
  · exact .inl ⟨h, nextPosition_lt h⟩
  · exact .inr ⟨h, nextPosition_ge h⟩

/-- The frame is a function of the operand registers and the parameters. -/
theorem frameHeader_congr {t : State} (ho : t.op = s.op) (hc : t.cmd = s.cmd) (ha : t.addr = s.addr) (hf : t.off = s.off)
    (hp : t.par = s.par) : frameHeader t = frameHeader s := by
  simp [frameHeader, ho, hc, ha, hf, hp]

theorem frameLength_congr {t : State} (ho : t.op = s.op) (hc : t.cmd = s.cmd) (ha : t.addr = s.addr) (hf : t.off = s.off)
    (hp : t.par = s.par) (hn : t.cnt = s.cnt) : frameLength t = frameLength s := by
  simp [frameLength, frameHeader_congr ho hc ha hf hp, hn]

/-- SETCMD's update of H.deepSleep touches nothing else (R130). -/
theorem updateDeepSleep_eq (s : State) :
    updateDeepSleep s = { s with deepSleep := if s.op = .setcmd then sleepsAfter s.par s.cmd else s.deepSleep } := by
  unfold updateDeepSleep
  split <;> rfl

/-- The LinkRead of a position touches H.rxBuf, the inputs to come and the record (R102, R103). -/
theorem readPosition_eq (j : Nat) (s : State) :
    readPosition j s =
      { s.linkRead with rxBuf := if keepsByte s j then s.rxBuf ++ [s.inputs.rxdr] else s.rxBuf } := by
  unfold readPosition
  split <;> rfl

/-! ## The dispatcher -/

theorem nextEntry_cases (s : State) :
    (s.dCursor.toNat + 1 < 10 ∧ nextEntry s = { s with dCursor := s.dCursor + 1, seq := .op (.disp .test) }) ∨
    (¬ s.dCursor.toNat + 1 < 10 ∧ nextEntry s = s.goTo (.disp .done)) := by
  by_cases h : s.dCursor.toNat + 1 < dispatchOrder.length
  · exact .inl ⟨h, by simp only [nextEntry, if_pos h]⟩
  · exact .inr ⟨h, by simp only [nextEntry, if_neg h]⟩

/-- Masking with 1 << n tests bit n (30_encoding.md R84). -/
theorem irqSet_eq_bit (b : IrqBits) (w : BitVec 16) (e : IrqSource) :
    irqSet b w e = w.getLsbD (irqBit b e).toNat := by
  unfold irqSet irqMask
  generalize irqBit b e = n
  have hn : n.toNat < 16 := n.isLt
  cases h : w.getLsbD n.toNat
  · rw [bne_eq_false_iff_eq]
    apply BitVec.eq_of_getLsbD_eq
    intro i hi
    by_cases hin : i = n.toNat
    · subst hin; simp [h]
    · simp only [BitVec.getLsbD_and, BitVec.getLsbD_shiftLeft, BitVec.getLsbD_one, BitVec.getLsbD_zero]
      simp
      intro _ _ h1 h2
      omega
  · rw [bne_iff_ne]
    intro hz
    have := congrArg (fun v => v.getLsbD n.toNat) hz
    simp [hn] at this
    rw [← BitVec.getLsbD_eq_getElem, h] at this
    cases this

/-- The big-endian status word is the concatenation of its two bytes (42_dispatcher.md R162). -/
theorem statusWord_eq_append (b1 b2 : Byte) : statusWord b1 b2 = b1 ++ b2 := by
  unfold statusWord
  apply BitVec.eq_of_getLsbD_eq
  intro i hi
  simp only [BitVec.getLsbD_or, BitVec.getLsbD_shiftLeft, BitVec.getLsbD_setWidth, BitVec.getLsbD_append]
  by_cases h : i < 8
  · simp [h]; omega
  · simp [h, hi]
    have : b2.getLsbD i = false := BitVec.getLsbD_of_ge _ _ (by omega)
    rw [this]; simp; intro _; omega

/-! ## Places -/

theorem Resume.seq_resume (r : Resume) : r.seq.resume = r := by cases r <;> rfl

/-- Outside an operation, the place an admitted operation returns to is the place itself. -/
theorem Seq.resume_seq {q : Seq} (h : q.inOperation = false) : q.resume.seq = q := by
  cases q with
  | idle => rfl
  | op k => cases k with
    | txn o p => cases h
    | init j p => cases h
    | deinit b p => cases h
    | disp p => cases p <;> rfl
  | wait k => cases k with
    | txn o w => cases h
    | initReset j => cases h
    | deinitReset b => cases h
    | ack => rfl

theorem Seq.quiet_iff {q : Seq} : q.quiet = true ↔ q = .idle ∨ q = .wait .ack := by
  cases q with
  | idle => simp [Seq.quiet]
  | op k => simp [Seq.quiet]
  | wait k => cases k <;> simp [Seq.quiet]

end Sys2Proof.Machine
end

