-- ==== Sys2Proof/Laws/Step.lean ====
section
/-! SUPPORT. What a step and each request can do, once: the inversion lemmas every invariant is derived from. -/

namespace Sys2Proof.Machine

variable {s t : State}

/-- Everything a step that answers a next state can be: a request that is due runs, a refused descriptor sets the mark, or
the controller moves (10_state.md R25, 30_encoding.md R76). -/
theorem step_next_cases (h : step s = .next t) :
    (∃ r rest i, s.port = r :: rest ∧ r.delay = 0 ∧ decode s.par.prescalerCodes r.desc r.payload = .ok i ∧
      exec i (s.serving r rest) = .next t) ∨
    (∃ r rest e, s.port = r :: rest ∧ r.delay = 0 ∧ decode s.par.prescalerCodes r.desc r.payload = .error e ∧
      t = (s.serving r rest).refuse) ∨
    ((∀ r ∈ s.port.head?, r.delay ≠ 0) ∧ t = (advance s).tick) := by
  unfold step State.due at h
  cases hp : s.port with
  | nil => simp only [hp] at h; cases h; exact .inr (.inr ⟨by simp, rfl⟩)
  | cons r rest =>
    simp only [hp] at h
    by_cases hd : r.delay = 0
    · simp only [hd, if_true, present, State.serving_par] at h
      cases hdec : decode s.par.prescalerCodes r.desc r.payload with
      | ok i => simp only [hdec] at h; exact .inl ⟨r, rest, i, rfl, hd, hdec, h⟩
      | error e => simp only [hdec] at h; cases h; exact .inr (.inl ⟨r, rest, e, rfl, hd, hdec, rfl⟩)
    · simp only [hd, if_false] at h; cases h; exact .inr (.inr ⟨by simpa using hd, rfl⟩)

/-- The due request runs. -/
theorem step_of_due {r rest i} (hp : s.port = r :: rest) (hd : r.delay = 0)
    (hdec : decode s.par.prescalerCodes r.desc r.payload = .ok i) : step s = exec i (s.serving r rest) := by
  simp [step, State.due, hp, hd, present, hdec]

/-- A due descriptor that is refused sets the mark. -/
theorem step_of_refused {r rest e} (hp : s.port = r :: rest) (hd : r.delay = 0)
    (hdec : decode s.par.prescalerCodes r.desc r.payload = .error e) : step s = .next (s.serving r rest).refuse := by
  simp [step, State.due, hp, hd, present, hdec]

/-- With nothing due the controller moves. -/
theorem step_of_not_due (h : ∀ r ∈ s.port.head?, r.delay ≠ 0) : step s = .next (advance s).tick := by
  cases hp : s.port with
  | nil => simp [step, State.due, hp]
  | cons r rest => simp [hp] at h; simp [step, State.due, hp, h]

/-- Everything a step that stops can have done: a due request was decoded, and its meaning stopped. -/
theorem step_fault_cases {f} (h : step s = .fault f) :
    ∃ r rest i, s.port = r :: rest ∧ r.delay = 0 ∧ decode s.par.prescalerCodes r.desc r.payload = .ok i ∧
      exec i (s.serving r rest) = .fault f := by
  by_cases hn : ∀ r ∈ s.port.head?, r.delay ≠ 0
  · rw [step_of_not_due hn] at h; cases h
  · cases hp : s.port with
    | nil => simp [hp] at hn
    | cons r rest =>
      have hd : r.delay = 0 := by simpa [hp] using hn
      cases hdec : decode s.par.prescalerCodes r.desc r.payload with
      | error e => rw [step_of_refused hp hd hdec] at h; cases h
      | ok i => exact ⟨r, rest, i, rfl, hd, hdec, step_of_due hp hd hdec ▸ h⟩

/-- Everything a request that stops can be: a broken host duty. -/
theorem exec_fault_cases {i f} (h : exec i s = .fault f) :
    (i = .dispatch ∧ f = .dispatchDuty ∧ dispatchAllowed s = false) ∨
    (∃ c, i = .init c ∧ f = .initDuty ∧ initAllowed s = false) ∨
    (i = .deinit ∧ f = .deinitDuty ∧ s.seq.quiet = false) := by
  cases i with
  | dispatch =>
    cases hd : dispatchAllowed s <;> simp [exec, execDispatch, hd] at h
    exact .inl ⟨rfl, h.symm, rfl⟩
  | init c =>
    cases hd : initAllowed s <;> simp [exec, execInit, hd] at h
    exact .inr (.inl ⟨c, rfl, h.symm, rfl⟩)
  | deinit =>
    cases hd : s.seq.quiet <;> simp [exec, execDeinit, hd] at h
    exact .inr (.inr ⟨rfl, h.symm, rfl⟩)
  | _ => cases h

/-- The operand load of each transaction request. -/
def operandLoad : Instr → State → State
  | .wrregs a p, s => loadRegisterOperands .wrregs a (payloadCount p) p s
  | .rdregs a n, s => loadRegisterOperands .rdregs a n [] s
  | .setcmd c p, s => loadCommandOperands .setcmd c (payloadCount p) p s
  | .getcmd c n, s => loadCommandOperands .getcmd c n [] s
  | .wrbuf f p, s => loadBufferOperands .wrbuf f (payloadCount p) p s
  | .rdbuf f n, s => loadBufferOperands .rdbuf f n [] s
  | .wrreg a b, s => loadRegisterOperands .wrreg a 1 [b] s
  | .rdreg a, s => loadRegisterOperands .rdreg a 1 [] s
  | .init _, s => s
  | .deinit, s => s
  | .getstate, s => s
  | .geterror, s => s
  | .dispatch, s => s

/-- Every transaction request is an admission with its operand load. -/
theorem exec_transaction {i : Instr} (hi : i.isTransaction = true) (s : State) : exec i s = admission (operandLoad i) s := by
  cases i <;> first | rfl | cases hi

/-- The load writes operand registers only. -/
theorem operandLoad_eq (i : Instr) (s : State) :
    operandLoad i s =
      { s with
        op := (operandLoad i s).op, cmd := (operandLoad i s).cmd, addr := (operandLoad i s).addr
        off := (operandLoad i s).off, cnt := (operandLoad i s).cnt, txBuf := (operandLoad i s).txBuf
        rxBuf := (operandLoad i s).rxBuf } := by
  cases i <;> rfl

/-- Everything serving a request that answers a next state can be. -/
theorem exec_next_cases {i : Instr} (h : exec i s = .next t) :
    (i.isTransaction = true ∧ s.admits = true ∧
      t = ({ operandLoad i s.acquire with client := s.asking }).startTxn (.requester s.seq.resume)) ∨
    (i.isTransaction = true ∧ s.admits = false ∧ t = s.respond s.asking (.result .busy [])) ∨
    (∃ c, i = .init c ∧ initAllowed s = true ∧
      t = (({ s with state := .busy, callFailed := false, op := .init, client := s.asking }).goTo
        (.init { code := c, prev := s.state, back := s.seq.resume } (initFirst s.state)))) ∨
    (i = .deinit ∧ s.seq.quiet = true ∧
      t = (({ s with state := .busy, callFailed := false, busEnabled := false, op := .deinit, client := s.asking }).goTo
        (.deinit s.seq.resume .setRst))) ∨
    (i = .getstate ∧ t = s.respond s.asking (.value (s.state.code.setWidth 32))) ∨
    (i = .geterror ∧ t = s.respond s.asking (.value s.errorCode)) ∨
    (i = .dispatch ∧ dispatchAllowed s = true ∧
      t = (loadCommandOperands .getcmd s.par.opcGetIrqStatus 3 []
        ({ s with dActive := true, dClient := s.asking }).acquire).startTxn .dispatchGet) := by
  by_cases hi : i.isTransaction = true
  · rw [exec_transaction hi] at h
    cases ha : s.admits
    · rw [admission_busy ha] at h; cases h; exact .inr (.inl ⟨hi, rfl, rfl⟩)
    · rw [admission_admitted ha] at h; cases h; exact .inl ⟨hi, rfl, rfl⟩
  · cases i with
    | init c =>
      simp only [exec, execInit] at h
      split at h
      · cases h; exact .inr (.inr (.inl ⟨c, rfl, ‹_›, rfl⟩))
      · cases h
    | deinit =>
      simp only [exec, execDeinit] at h
      split at h
      · cases h; exact .inr (.inr (.inr (.inl ⟨rfl, ‹_›, rfl⟩)))
      · cases h
    | getstate => cases h; exact .inr (.inr (.inr (.inr (.inl ⟨rfl, rfl⟩))))
    | geterror => cases h; exact .inr (.inr (.inr (.inr (.inr (.inl ⟨rfl, rfl⟩)))))
    | dispatch =>
      simp only [exec, execDispatch] at h
      split at h
      · cases h; exact .inr (.inr (.inr (.inr (.inr (.inr ⟨rfl, ‹_›, rfl⟩)))))
      · cases h
    | wrregs a p => exact absurd rfl hi
    | rdregs a n => exact absurd rfl hi
    | setcmd c p => exact absurd rfl hi
    | getcmd c n => exact absurd rfl hi
    | wrbuf f p => exact absurd rfl hi
    | rdbuf f n => exact absurd rfl hi
    | wrreg a b => exact absurd rfl hi
    | rdreg a => exact absurd rfl hi

end Sys2Proof.Machine
end

