-- ==== Sys2Proof/Laws/Advance.lean ====
section
/-! SUPPORT. Everything one controller step can do, said once: one equation per micro-step with the whole next state written
out, and the elimination principle `advance_elim` every invariant of the sequencer is derived from. -/

namespace Sys2Proof.Machine

/-! ## Bounded waits -/

/-- The micro-step an operation goes on with after its bounded wait; INIT's depends on whether it configures the bus. -/
def WaitPoint.after (configures : Bool) : WaitPoint → Point
  | .txn o .startGate => .txn o .frameSel
  | .txn o (.txe j) => .txn o (.linkWrite j)
  | .txn o (.rxne j) => .txn o (.linkRead j)
  | .txn o .endGate => .txn o .release
  | .initReset j => if configures then .init j .setSel else .init j .respond
  | .deinitReset b => .deinit b .setSel
  | .ack => .disp .test

variable {s : State}

/-- A wait that has timed out: the fault is recorded and the operation goes on (R101, R104). -/
theorem advance_wait_expired {k : WaitPoint} {f : FaultKind} (hq : s.seq = .wait k) (hf : k.faultKind = some f)
    (h : s.count = 0) :
    advance s =
      { s with errorCode := f.code, callFailed := true, seq := .op (k.after (s.par.initFailState == .ready)) } := by
  cases k with
  | txn o w =>
    cases w <;> cases hf <;> simp only [advance, hq, waitStep, txnWaitStep, pollStep_expired h] <;> rfl
  | initReset j =>
    cases hf
    simp only [advance, hq, waitStep, initWaitStep, pollStep_expired h, initAfterWait, initConfigures]
    cases hr : (s.par.initFailState == InitFailState.ready) <;>
      simp [hr, State.recordFault, State.goTo, WaitPoint.after]
  | deinitReset b => cases hf; simp only [advance, hq, waitStep, deinitWaitStep, pollStep_expired h]; rfl
  | ack => cases hf

/-- A sample on which the wait ends (R100). -/
theorem advance_wait_holds {k : WaitPoint} (hq : s.seq = .wait k) (ha : k ≠ .ack) (h : s.count ≠ 0)
    (hp : k.holds s.inputs = true) :
    advance s =
      { s with
        count := s.count - 1, env := s.env.tail, drawn := s.drawn + 1, trace := .sample s.inputs :: s.trace
        seq := .op (k.after (initConfigures s)) } := by
  cases k with
  | txn o w =>
    cases w <;> simp only [advance, hq, waitStep, txnWaitStep] <;>
      (rw [pollStep_holds h (by exact hp)]; rfl)
  | initReset j =>
    simp only [advance, hq, waitStep, initWaitStep]
    rw [pollStep_holds h (by exact hp)]
    have : initConfigures ({ s.afterRead with count := s.count - 1 }.log (.sample s.inputs)) = initConfigures s := rfl
    simp only [initAfterWait, this]
    cases hc : initConfigures s <;> simp [WaitPoint.after, State.goTo, State.log, State.afterRead]
  | deinitReset b =>
    simp only [advance, hq, waitStep, deinitWaitStep]
    rw [pollStep_holds h (by exact hp)]; rfl
  | ack => exact absurd rfl ha

/-- A sample on which the wait goes on (R100). -/
theorem advance_wait_waits {k : WaitPoint} (hq : s.seq = .wait k) (ha : k ≠ .ack) (h : s.count ≠ 0)
    (hp : k.holds s.inputs = false) :
    advance s =
      { s with
        count := s.count - 1, env := s.env.tail, drawn := s.drawn + 1, trace := .sample s.inputs :: s.trace } := by
  cases k with
  | txn o w =>
    cases w <;> simp only [advance, hq, waitStep, txnWaitStep] <;>
      (rw [pollStep_waits h (by exact hp)]; simp [State.log, State.afterRead, ← hq])
  | initReset j =>
    simp only [advance, hq, waitStep, initWaitStep]
    rw [pollStep_waits h (by exact hp)]; simp [State.log, State.afterRead, ← hq]
  | deinitReset b =>
    simp only [advance, hq, waitStep, deinitWaitStep]
    rw [pollStep_waits h (by exact hp)]; simp [State.log, State.afterRead, ← hq]
  | ack => exact absurd rfl ha

/-! ## The micro-steps of a transaction -/

/-- Where the sequencer stands after position j - 1 of the frame. -/
def positionSeq (o : Owner) (j : Nat) (s : State) : Seq :=
  if j < frameLength s then .wait (.txn o (.txe j)) else .op (.txn o .frameDesel)

theorem nextPosition_eq (o : Owner) (j : Nat) (s : State) :
    nextPosition o j s =
      { s with
        seq := positionSeq o j s
        count := if j < frameLength s then s.par.busBudget else s.count } := by
  by_cases h : j < frameLength s <;> simp [nextPosition, positionSeq, h, State.goWait, State.goTo, WaitPoint.budget]

theorem advance_frameSel {o} (hq : s.seq = .op (.txn o .frameSel)) :
    advance s =
      { s with
        deepSleep := if s.op = .setcmd then sleepsAfter s.par s.cmd else s.deepSleep
        sel := true, trace := .sel true :: s.trace
        seq := positionSeq o 0 s, count := if 0 < frameLength s then s.par.busBudget else s.count } := by
  simp only [advance, hq, opStep, txnStep, nextPosition_eq, updateDeepSleep_eq]; rfl

theorem advance_linkWrite {o j} (hq : s.seq = .op (.txn o (.linkWrite j))) :
    advance s =
      { s with
        txdr := sentByte s j, trace := .linkWrite (sentByte s j) :: s.trace
        seq := .wait (.txn o (.rxne j)), count := s.par.busBudget } := by
  simp only [advance, hq, opStep, txnStep]; rfl

theorem advance_linkRead {o j} (hq : s.seq = .op (.txn o (.linkRead j))) :
    advance s =
      { s with
        rxBuf := if keepsByte s j then s.rxBuf ++ [s.inputs.rxdr] else s.rxBuf
        env := s.env.tail, drawn := s.drawn + 1, trace := .linkRead s.inputs.rxdr :: s.trace
        seq := positionSeq o (j + 1) s
        count := if j + 1 < frameLength s then s.par.busBudget else s.count } := by
  simp only [advance, hq, opStep, txnStep, nextPosition_eq, readPosition_eq]; rfl

theorem advance_frameDesel {o} (hq : s.seq = .op (.txn o .frameDesel)) :
    advance s =
      { s with
        sel := false, trace := .sel false :: s.trace
        seq := if skipsFinalGate s.par s.op s.cmd then .op (.txn o .release) else .wait (.txn o .endGate)
        count := if skipsFinalGate s.par s.op s.cmd then s.count else s.par.busyBudget } := by
  simp only [advance, hq, opStep, txnStep]
  cases skipsFinalGate s.par s.op s.cmd <;> rfl

theorem advance_release_requester {back} (hq : s.seq = .op (.txn (.requester back) .release)) :
    advance s =
      { s with
        state := .ready, lockHeld := false, seq := back.seq, op := back.op s.op
        trace := .respond s.client (.result (classify s.callFailed) (responseData s)) :: s.trace } := by
  simp only [advance, hq, opStep, txnStep]; rfl

theorem advance_release_get (hq : s.seq = .op (.txn .dispatchGet .release)) :
    advance s =
      { s with
        lockHeld := true, state := .busy, callFailed := false
        errorCode := if s.par.errPolicy = .perOperation then 0 else s.errorCode
        dStat := { s0 := receivedByte s.rxBuf 0, s1 := receivedByte s.rxBuf 1, s2 := receivedByte s.rxBuf 2 }
        dWord := statusWord (receivedByte s.rxBuf 1) (receivedByte s.rxBuf 2)
        op := .setcmd, cmd := s.par.opcClrIrqStatus, cnt := 2
        txBuf := [receivedByte s.rxBuf 1, receivedByte s.rxBuf 2], rxBuf := []
        seq := if s.deepSleep then .op (.txn .dispatchClr .wakeSel) else .wait (.txn .dispatchClr .startGate)
        count := if s.deepSleep then s.count else s.par.busyBudget } := by
  simp only [advance, hq, opStep, txnStep, releaseTxn, releaseGetAdmitClr, State.startTxn]
  cases hd : s.deepSleep <;> simp [loadCommandOperands, State.acquire, State.unlock, State.goTo, State.goWait, hd,
    WaitPoint.budget]

/-! ## The dispatcher's micro-steps -/

/-- Where the dispatcher goes on after entry H.dCursor. -/
theorem nextEntry_eq (s : State) :
    nextEntry s =
      { s with
        dCursor := if s.dCursor.toNat + 1 < 10 then s.dCursor + 1 else s.dCursor
        seq := if s.dCursor.toNat + 1 < 10 then .op (.disp .test) else .op (.disp .done) } := by
  obtain ⟨h, e⟩ | ⟨h, e⟩ := nextEntry_cases s <;> rw [e] <;> simp [h, State.goTo]

theorem advance_ack_taken (hq : s.seq = .wait .ack) (h : s.inputs.evtAck = true) :
    advance s =
      { s with
        env := s.env.tail, drawn := s.drawn + 1, evtValid := false, trace := .ack :: s.trace
        dCursor := if s.dCursor.toNat + 1 < 10 then s.dCursor + 1 else s.dCursor
        seq := if s.dCursor.toNat + 1 < 10 then .op (.disp .test) else .op (.disp .done) } := by
  simp only [advance, hq, waitStep, ackStep, h, if_true, nextEntry_eq]; rfl

theorem advance_ack_waits (hq : s.seq = .wait .ack) (h : s.inputs.evtAck = false) :
    advance s = { s with env := s.env.tail, drawn := s.drawn + 1 } := by
  simp only [advance, hq, waitStep, ackStep, h]; simp [State.afterRead, ← hq]

theorem advance_test_emits {e} (hq : s.seq = .op (.disp .test))
    (h : reaction s.par.irq s.dWord s.dCursor.toNat = some e) :
    advance s = { s with evt := e, evtValid := true, seq := .wait .ack, trace := .emit e :: s.trace } := by
  simp only [advance, hq, opStep, dispStep, h]; rfl

theorem advance_test_silent (hq : s.seq = .op (.disp .test))
    (h : reaction s.par.irq s.dWord s.dCursor.toNat = none) :
    advance s =
      { s with
        dCursor := if s.dCursor.toNat + 1 < 10 then s.dCursor + 1 else s.dCursor
        seq := if s.dCursor.toNat + 1 < 10 then .op (.disp .test) else .op (.disp .done) } := by
  simp only [advance, hq, opStep, dispStep, h, nextEntry_eq]

/-! ## The elimination principle -/

/-- Everything a controller step can do: a relation between a state and the next holds of every controller step if it holds
in each of the cases below, one per micro-step. -/
theorem advance_elim {P : State → State → Prop} (s : State)
    (idle : s.seq = .idle → P s s)
    (wakeSel : ∀ o, s.seq = .op (.txn o .wakeSel) →
      P s { s with sel := true, trace := .sel true :: s.trace, seq := .op (.txn o .wakeHold) })
    (wakeHold : ∀ o, s.seq = .op (.txn o .wakeHold) →
      P s { s with trace := .hold s.par.wakeHold :: s.trace, seq := .op (.txn o .wakeDesel) })
    (wakeDesel : ∀ o, s.seq = .op (.txn o .wakeDesel) →
      P s { s with
        sel := false, trace := .sel false :: s.trace, seq := .wait (.txn o .startGate), count := s.par.busyBudget })
    (frameSel : ∀ o, s.seq = .op (.txn o .frameSel) →
      P s { s with
        deepSleep := if s.op = .setcmd then sleepsAfter s.par s.cmd else s.deepSleep
        sel := true, trace := .sel true :: s.trace
        seq := positionSeq o 0 s, count := if 0 < frameLength s then s.par.busBudget else s.count })
    (linkWrite : ∀ o j, s.seq = .op (.txn o (.linkWrite j)) →
      P s { s with
        txdr := sentByte s j, trace := .linkWrite (sentByte s j) :: s.trace
        seq := .wait (.txn o (.rxne j)), count := s.par.busBudget })
    (linkRead : ∀ o j, s.seq = .op (.txn o (.linkRead j)) →
      P s { s with
        rxBuf := if keepsByte s j then s.rxBuf ++ [s.inputs.rxdr] else s.rxBuf
        env := s.env.tail, drawn := s.drawn + 1, trace := .linkRead s.inputs.rxdr :: s.trace
        seq := positionSeq o (j + 1) s
        count := if j + 1 < frameLength s then s.par.busBudget else s.count })
    (frameDesel : ∀ o, s.seq = .op (.txn o .frameDesel) →
      P s { s with
        sel := false, trace := .sel false :: s.trace
        seq := if skipsFinalGate s.par s.op s.cmd then .op (.txn o .release) else .wait (.txn o .endGate)
        count := if skipsFinalGate s.par s.op s.cmd then s.count else s.par.busyBudget })
    (releaseRequester : ∀ back, s.seq = .op (.txn (.requester back) .release) →
      P s { s with
        state := .ready, lockHeld := false, seq := back.seq, op := back.op s.op
        trace := .respond s.client (.result (classify s.callFailed) (responseData s)) :: s.trace })
    (releaseGet : s.seq = .op (.txn .dispatchGet .release) →
      P s { s with
        lockHeld := true, state := .busy, callFailed := false
        errorCode := if s.par.errPolicy = .perOperation then 0 else s.errorCode
        dStat := { s0 := receivedByte s.rxBuf 0, s1 := receivedByte s.rxBuf 1, s2 := receivedByte s.rxBuf 2 }
        dWord := statusWord (receivedByte s.rxBuf 1) (receivedByte s.rxBuf 2)
        op := .setcmd, cmd := s.par.opcClrIrqStatus, cnt := 2
        txBuf := [receivedByte s.rxBuf 1, receivedByte s.rxBuf 2], rxBuf := []
        seq := if s.deepSleep then .op (.txn .dispatchClr .wakeSel) else .wait (.txn .dispatchClr .startGate)
        count := if s.deepSleep then s.count else s.par.busyBudget })
    (releaseClr : s.seq = .op (.txn .dispatchClr .release) →
      P s { s with state := .ready, lockHeld := false, dCursor := 0, op := .dispatch, seq := .op (.disp .test) })
    (initSetRst : ∀ j, s.seq = .op (.init j .setRst) →
      P s { s with
        rst := false, trace := .rst false :: s.trace, seq := .wait (.initReset j), count := s.par.resetBudget })
    (initSetSel : ∀ j, s.seq = .op (.init j .setSel) →
      P s { s with sel := false, trace := .sel false :: s.trace, seq := .op (.init j .respond) })
    (initRespond : ∀ j, s.seq = .op (.init j .respond) →
      P s { (initFinish j s) with
        seq := j.back.seq, op := j.back.op s.op
        trace := .respond s.client (.result (classify s.callFailed) []) :: s.trace })
    (deinitSetRst : ∀ b, s.seq = .op (.deinit b .setRst) →
      P s { s with
        rst := true, trace := .rst true :: s.trace, seq := .wait (.deinitReset b), count := s.par.resetBudget })
    (deinitSetSel : ∀ b, s.seq = .op (.deinit b .setSel) →
      P s { s with sel := false, trace := .sel false :: s.trace, seq := .op (.deinit b .respond) })
    (deinitRespond : ∀ b, s.seq = .op (.deinit b .respond) →
      P s { s with
        errorCode := 0, lockHeld := false, state := .uninitializedAfterReset
        seq := b.seq, op := b.op s.op
        trace := .respond s.client (.result (classify s.callFailed) []) :: s.trace })
    (testEmits : ∀ e, s.seq = .op (.disp .test) → reaction s.par.irq s.dWord s.dCursor.toNat = some e →
      P s { s with evt := e, evtValid := true, seq := .wait .ack, trace := .emit e :: s.trace })
    (testSilent : s.seq = .op (.disp .test) → reaction s.par.irq s.dWord s.dCursor.toNat = none →
      P s { s with
        dCursor := if s.dCursor.toNat + 1 < 10 then s.dCursor + 1 else s.dCursor
        seq := if s.dCursor.toNat + 1 < 10 then .op (.disp .test) else .op (.disp .done) })
    (done : s.seq = .op (.disp .done) →
      P s { s with dActive := false, seq := .idle, trace := .respond s.dClient .done :: s.trace })
    (waitExpired : ∀ k f, s.seq = .wait k → k.faultKind = some f → s.count = 0 →
      P s { s with errorCode := f.code, callFailed := true, seq := .op (k.after (s.par.initFailState == .ready)) })
    (waitHolds : ∀ k, s.seq = .wait k → k ≠ .ack → s.count ≠ 0 → k.holds s.inputs = true →
      P s { s with
        count := s.count - 1, env := s.env.tail, drawn := s.drawn + 1, trace := .sample s.inputs :: s.trace
        seq := .op (k.after (initConfigures s)) })
    (waitWaits : ∀ k, s.seq = .wait k → k ≠ .ack → s.count ≠ 0 → k.holds s.inputs = false →
      P s { s with
        count := s.count - 1, env := s.env.tail, drawn := s.drawn + 1, trace := .sample s.inputs :: s.trace })
    (ackTaken : s.seq = .wait .ack → s.inputs.evtAck = true →
      P s { s with
        env := s.env.tail, drawn := s.drawn + 1, evtValid := false, trace := .ack :: s.trace
        dCursor := if s.dCursor.toNat + 1 < 10 then s.dCursor + 1 else s.dCursor
        seq := if s.dCursor.toNat + 1 < 10 then .op (.disp .test) else .op (.disp .done) })
    (ackWaits : s.seq = .wait .ack → s.inputs.evtAck = false →
      P s { s with env := s.env.tail, drawn := s.drawn + 1 }) :
    P s (advance s) := by
  cases hq : s.seq with
  | idle => rw [show advance s = s by simp [advance, hq]]; exact idle hq
  | op k =>
    cases k with
    | txn o p =>
      cases p with
      | wakeSel => rw [show advance s = _ by simp only [advance, hq, opStep, txnStep]; rfl]; exact wakeSel o hq
      | wakeHold => rw [show advance s = _ by simp only [advance, hq, opStep, txnStep]; rfl]; exact wakeHold o hq
      | wakeDesel => rw [show advance s = _ by simp only [advance, hq, opStep, txnStep]; rfl]; exact wakeDesel o hq
      | frameSel => rw [advance_frameSel hq]; exact frameSel o hq
      | linkWrite j => rw [advance_linkWrite hq]; exact linkWrite o j hq
      | linkRead j => rw [advance_linkRead hq]; exact linkRead o j hq
      | frameDesel => rw [advance_frameDesel hq]; exact frameDesel o hq
      | release =>
        cases o with
        | requester back => rw [advance_release_requester hq]; exact releaseRequester back hq
        | dispatchGet => rw [advance_release_get hq]; exact releaseGet hq
        | dispatchClr => rw [show advance s = _ by simp only [advance, hq, opStep, txnStep]; rfl]; exact releaseClr hq
    | init j p =>
      cases p with
      | setRst => rw [show advance s = _ by simp only [advance, hq, opStep, initStep]; rfl]; exact initSetRst j hq
      | setSel => rw [show advance s = _ by simp only [advance, hq, opStep, initStep]; rfl]; exact initSetSel j hq
      | respond =>
        have ht : (initFinish j s).trace = s.trace := by unfold initFinish; split <;> rfl
        have ho : (initFinish j s).op = s.op := by unfold initFinish; split <;> rfl
        have : advance s = { (initFinish j s) with
            seq := j.back.seq, op := j.back.op s.op
            trace := .respond s.client (.result (classify s.callFailed) []) :: s.trace } := by
          simp only [advance, hq, opStep, initStep, State.resumeAt, State.respond, State.log, ht, ho]
        rw [this]; exact initRespond j hq
    | deinit b p =>
      cases p with
      | setRst => rw [show advance s = _ by simp only [advance, hq, opStep, deinitStep]; rfl]; exact deinitSetRst b hq
      | setSel => rw [show advance s = _ by simp only [advance, hq, opStep, deinitStep]; rfl]; exact deinitSetSel b hq
      | respond => rw [show advance s = _ by simp only [advance, hq, opStep, deinitStep]; rfl]; exact deinitRespond b hq
    | disp p =>
      cases p with
      | test =>
        cases hr : reaction s.par.irq s.dWord s.dCursor.toNat with
        | some e => rw [advance_test_emits hq hr]; exact testEmits e hq hr
        | none => rw [advance_test_silent hq hr]; exact testSilent hq hr
      | done => rw [show advance s = _ by simp only [advance, hq, opStep, dispStep]; rfl]; exact done hq
  | wait k =>
    by_cases hk : k = .ack
    · subst hk
      cases ha : s.inputs.evtAck
      · rw [advance_ack_waits hq ha]; exact ackWaits hq ha
      · rw [advance_ack_taken hq ha]; exact ackTaken hq ha
    · by_cases hc : s.count = 0
      · obtain ⟨f, hf⟩ : ∃ f, k.faultKind = some f := by
          cases k with
          | txn o w => cases w <;> exact ⟨_, rfl⟩
          | initReset j => exact ⟨_, rfl⟩
          | deinitReset b => exact ⟨_, rfl⟩
          | ack => exact absurd rfl hk
        rw [advance_wait_expired hq hf hc]; exact waitExpired k f hq hf hc
      · cases hp : k.holds s.inputs
        · rw [advance_wait_waits hq hk hc hp]; exact waitWaits k hq hk hc hp
        · rw [advance_wait_holds hq hk hc hp]; exact waitHolds k hq hk hc hp

/-- INIT's last assignments touch the Handle's fields only (R181). -/
theorem initFinish_eq (j : InitJob) (s : State) :
    initFinish j s =
      { s with
        baudPrescaler := if initConfigures s then j.code else s.baudPrescaler
        presc := if initConfigures s then j.code else s.presc
        busEnabled := if initConfigures s then true else s.busEnabled
        deepSleep := if initConfigures s then true else s.deepSleep
        lockHeld := if initConfigures s then false else s.lockHeld
        errorCode := if initConfigures s then (if s.callFailed then s.errorCode else 0) else s.errorCode
        state := if initConfigures s then .ready else j.prev } := by
  unfold initFinish
  cases initConfigures s <;> simp

/-- No controller step touches the request port: requests come from outside. -/
theorem advance_port (s : State) : (advance s).port = s.port := by
  refine advance_elim (P := fun s t => t.port = s.port) s ?_ ?_ ?_ ?_ ?_ ?_ ?_ ?_ ?_ ?_ ?_ ?_ ?_ ?_ ?_ ?_ ?_ ?_ ?_ ?_ ?_
    ?_ ?_ ?_ ?_ <;> intros <;> simp [initFinish_eq]

end Sys2Proof.Machine
end

