-- ==== Sys2Proof/Laws/Decode.lean ====
section
/-! SUPPORT. The small lemmas of the descriptor: each field of a packed descriptor, the OPSEL code and its inverse, the
prescaler byte, and what an accepted descriptor is. -/

namespace Sys2Proof

theorem OpSel.ofCode_code (o : OpSel) : OpSel.ofCode o.code = some o := by cases o <;> rfl

theorem OpSel.code_of_ofCode {c : BitVec 4} {o : OpSel} (h : OpSel.ofCode c = some o) : o.code = c := by
  have key : ∀ c : BitVec 4, (OpSel.ofCode c).all (fun o => o.code == c) = true := by decide
  have := key c
  rw [h] at this
  simpa using this

/-- The bits of a packed descriptor, field by field (30_encoding.md R71). -/
theorem packDesc_bit (o : OpSel) (b : Byte) (a c : BitVec 16) (i : Nat) :
    (packDesc o b a c).getLsbD i =
      (if i < 4 then o.code.getLsbD i else if i < 8 then false else if i < 16 then b.getLsbD (i - 8)
        else if i < 32 then a.getLsbD (i - 16) else if i < 48 then c.getLsbD (i - 32) else false) := by
  change @BitVec.getLsbD (16 + 16 + 16 + 8 + 4 + 4) (0#16 ++ c ++ a ++ b ++ 0#4 ++ o.code) i = _
  simp only [BitVec.getLsbD_append, BitVec.getLsbD_zero, Nat.sub_sub]
  split_ifs <;> first | rfl | omega

@[simp] theorem opsel_packDesc (o b a c) : Desc.opsel (packDesc o b a c) = o.code := by
  apply BitVec.eq_of_getLsbD_eq
  intro i hi
  simp [Desc.opsel, packDesc_bit, hi]

@[simp] theorem rsv0_packDesc (o b a c) : Desc.rsv0 (packDesc o b a c) = 0 := by
  apply BitVec.eq_of_getLsbD_eq
  intro i hi
  rw [Desc.rsv0, BitVec.getLsbD_extractLsb', packDesc_bit, if_neg (by omega), if_pos (by omega)]
  simp

@[simp] theorem b8_packDesc (o b a c) : Desc.b8 (packDesc o b a c) = b := by
  apply BitVec.eq_of_getLsbD_eq
  intro i hi
  rw [Desc.b8, BitVec.getLsbD_extractLsb', packDesc_bit, if_neg (by omega), if_neg (by omega), if_pos (by omega)]
  simp [hi]

@[simp] theorem a16_packDesc (o b a c) : Desc.a16 (packDesc o b a c) = a := by
  apply BitVec.eq_of_getLsbD_eq
  intro i hi
  rw [Desc.a16, BitVec.getLsbD_extractLsb', packDesc_bit, if_neg (by omega), if_neg (by omega), if_neg (by omega),
    if_pos (by omega)]
  simp [hi]

@[simp] theorem cnt_packDesc (o b a c) : Desc.cnt (packDesc o b a c) = c := by
  apply BitVec.eq_of_getLsbD_eq
  intro i hi
  rw [Desc.cnt, BitVec.getLsbD_extractLsb', packDesc_bit, if_neg (by omega), if_neg (by omega), if_neg (by omega),
    if_neg (by omega), if_pos (by omega)]
  simp [hi]

@[simp] theorem rsv1_packDesc (o b a c) : Desc.rsv1 (packDesc o b a c) = 0 := by
  apply BitVec.eq_of_getLsbD_eq
  intro i hi
  rw [Desc.rsv1, BitVec.getLsbD_extractLsb', packDesc_bit, if_neg (by omega), if_neg (by omega), if_neg (by omega),
    if_neg (by omega), if_neg (by omega)]
  simp

/-- INIT's code, zero-extended to the byte operand, is read back. -/
theorem prescalerByte_code (c : BitVec 3) : (BitVec.setWidth 8 c : Byte).extractLsb' 0 3 = c := by
  revert c; decide

/-- A byte is a legal prescaler byte exactly if it is some code of the set, zero-extended (R76 (d)). -/
theorem prescalerLegal_iff (codes : List (BitVec 3)) (b : Byte) :
    prescalerLegal codes b = true ↔ ∃ k ∈ codes, b = k.setWidth 8 := by
  have hb : ∀ b : Byte, b.extractLsb' 3 5 = 0#5 ↔ b = (b.extractLsb' 0 3).setWidth 8 := by decide
  simp only [prescalerLegal, Bool.and_eq_true, beq_iff_eq, List.contains_iff_mem]
  constructor
  · rintro ⟨h0, hm⟩
    exact ⟨_, hm, (hb b).1 h0⟩
  · rintro ⟨k, hk, rfl⟩
    rw [prescalerByte_code]
    exact ⟨(hb _).2 (by rw [prescalerByte_code]), hk⟩

/-- Everything a descriptor the decoder accepts is. -/
theorem decode_ok {codes d p i} (h : decode codes d p = .ok i) :
    ∃ o, OpSel.ofCode (Desc.opsel d) = some o ∧ Desc.rsv0 d = 0 ∧ Desc.rsv1 d = 0 ∧
      (o = .init → prescalerLegal codes (Desc.b8 d) = true) ∧ p.length = payloadLength o d ∧ i = assembleInstr o d p := by
  unfold decode at h
  cases ho : OpSel.ofCode (Desc.opsel d) with
  | none => rw [ho] at h; cases h
  | some o =>
    rw [ho] at h
    dsimp only at h
    split at h
    · cases h
    split at h
    · cases h
    split at h
    · cases h
    split at h
    · cases h
    rename_i h0 h1 h2 h3
    cases h
    refine ⟨o, rfl, by simpa using h0, by simpa using h1, ?_, by simpa using h3, rfl⟩
    intro hi
    cases hl : prescalerLegal codes (Desc.b8 d)
    · exact absurd ⟨hi, hl⟩ h2
    · rfl

end Sys2Proof
end

