-- ==== Sys2Proof/Laws/PerInstr.lean ====
section
/-! SUPPORT. The statements made per request: the family EncodeShape, that the encoding of a request matches its row of
spec/opcode_table.json (mask and match) and that its payload has the length its descriptor announces (30_encoding.md R71,
R72, R74). -/

namespace Sys2Proof.Laws

open Sys2Proof

/-- The row of the opcode table a request belongs to (30_encoding.md R72). -/
def rowOf : Instr → OpSel
  | .wrregs _ _ => .wrregs
  | .rdregs _ _ => .rdregs
  | .setcmd _ _ => .setcmd
  | .getcmd _ _ => .getcmd
  | .wrbuf _ _ => .wrbuf
  | .rdbuf _ _ => .rdbuf
  | .wrreg _ _ => .wrreg
  | .rdreg _ => .rdreg
  | .init _ => .init
  | .deinit => .deinit
  | .getstate => .getstate
  | .geterror => .geterror
  | .dispatch => .dispatch

/-- The mask of a row: the reserved fields and OPSEL, and for INIT the bits 15:11 its 3-bit code leaves 0. -/
def maskOf : OpSel → BitVec 64
  | .wrregs => 0xFFFF0000000000FF
  | .rdregs => 0xFFFF0000000000FF
  | .setcmd => 0xFFFF0000000000FF
  | .getcmd => 0xFFFF0000000000FF
  | .wrbuf => 0xFFFF0000000000FF
  | .rdbuf => 0xFFFF0000000000FF
  | .wrreg => 0xFFFF0000000000FF
  | .rdreg => 0xFFFF0000000000FF
  | .init => 0xFFFF00000000F8FF
  | .deinit => 0xFFFF0000000000FF
  | .getstate => 0xFFFF0000000000FF
  | .geterror => 0xFFFF0000000000FF
  | .dispatch => 0xFFFF0000000000FF

/-- Under the common mask a packed descriptor is its OPSEL alone. -/
theorem packDesc_and_mask (o : OpSel) (b : Byte) (a c : BitVec 16) :
    packDesc o b a c &&& 0xFFFF0000000000FF#64 = o.code.setWidth 64 := by
  apply BitVec.eq_of_getLsbD_eq
  intro i hi
  have hm : ∀ i < 64, (0xFFFF0000000000FF#64).getLsbD i = decide (i < 8 ∨ 48 ≤ i) := by decide
  rw [BitVec.getLsbD_and, packDesc_bit, hm i hi, BitVec.getLsbD_setWidth]
  by_cases h4 : i < 4
  · simp [h4, hi]; omega
  · have : o.code.getLsbD i = false := BitVec.getLsbD_of_ge _ _ (by omega)
    rw [this]
    split_ifs <;> simp <;> omega

namespace EncodeShape

/-- The encoding of the request matches its row, and the payload is as long as the descriptor announces. -/
def Statement (i : Instr) : Prop :=
  (encode i).1 &&& maskOf (rowOf i) = (rowOf i).code.setWidth 64 ∧
    ∀ codes, i.wellFormed codes = true → (encode i).2.length = payloadLength (rowOf i) (encode i).1

/-- A payload that fits is as long as its count says. -/
theorem fits {p : List Byte} (h : payloadFits p = true) : p.length = (BitVec.ofNat 16 p.length).toNat := by
  rw [BitVec.toNat_ofNat, Nat.mod_eq_of_lt (by simpa [payloadFits] using h)]

theorem wrregs (a : BitVec 16) (p : List Byte) : Statement (.wrregs a p) :=
  ⟨packDesc_and_mask _ _ _ _, fun _ h => by simpa [encode, payloadLength, rowOf, OpSel.carriesPayload] using fits h⟩

theorem rdregs (a n : BitVec 16) : Statement (.rdregs a n) := ⟨packDesc_and_mask _ _ _ _, fun _ _ => rfl⟩

theorem setcmd (c : Byte) (p : List Byte) : Statement (.setcmd c p) :=
  ⟨packDesc_and_mask _ _ _ _, fun _ h => by simpa [encode, payloadLength, rowOf, OpSel.carriesPayload] using fits h⟩

theorem getcmd (c : Byte) (n : BitVec 16) : Statement (.getcmd c n) := ⟨packDesc_and_mask _ _ _ _, fun _ _ => rfl⟩

theorem wrbuf (f : Byte) (p : List Byte) : Statement (.wrbuf f p) :=
  ⟨packDesc_and_mask _ _ _ _, fun _ h => by simpa [encode, payloadLength, rowOf, OpSel.carriesPayload] using fits h⟩

theorem rdbuf (f : Byte) (n : BitVec 16) : Statement (.rdbuf f n) := ⟨packDesc_and_mask _ _ _ _, fun _ _ => rfl⟩

theorem wrreg (a : BitVec 16) (b : Byte) : Statement (.wrreg a b) := ⟨packDesc_and_mask _ _ _ _, fun _ _ => rfl⟩

theorem rdreg (a : BitVec 16) : Statement (.rdreg a) := ⟨packDesc_and_mask _ _ _ _, fun _ _ => rfl⟩

theorem init (c : BitVec 3) : Statement (.init c) :=
  ⟨by revert c; decide, fun _ _ => rfl⟩

theorem deinit : Statement .deinit := ⟨by decide, fun _ _ => rfl⟩

theorem getstate : Statement .getstate := ⟨by decide, fun _ _ => rfl⟩

theorem geterror : Statement .geterror := ⟨by decide, fun _ _ => rfl⟩

theorem dispatch : Statement .dispatch := ⟨by decide, fun _ _ => rfl⟩

end EncodeShape

end Sys2Proof.Laws
end

