-- ==== Sys2Proof/Laws/Places.lean ====
section
/-! SUPPORT. The small lemmas of the sequencer's places: what each predicate of Safety.lean says of each place, and of the
places an operation goes on to (after a wait, after a position of a frame, after a response). -/

namespace Sys2Proof.Machine

/-! ## Places, predicate by predicate -/

@[simp] theorem Seq.inTxn_op_txn (o : Owner) (p : TxnPoint) : (.op (.txn o p) : Seq).inTxn = true := rfl
@[simp] theorem Seq.inTxn_wait_txn (o : Owner) (w : TxnWait) : (.wait (.txn o w) : Seq).inTxn = true := rfl
@[simp] theorem Seq.inTxn_op_init (j : InitJob) (p : InitPoint) : (.op (.init j p) : Seq).inTxn = false := rfl
@[simp] theorem Seq.inTxn_op_deinit (b : Resume) (p : DeinitPoint) : (.op (.deinit b p) : Seq).inTxn = false := rfl
@[simp] theorem Seq.inTxn_op_test : (.op (.disp .test) : Seq).inTxn = false := rfl
@[simp] theorem Seq.inTxn_op_done : (.op (.disp .done) : Seq).inTxn = false := rfl
@[simp] theorem Seq.inTxn_idle : (.idle : Seq).inTxn = false := rfl
@[simp] theorem Seq.inTxn_wait_initReset (j : InitJob) : (.wait (.initReset j) : Seq).inTxn = false := rfl
@[simp] theorem Seq.inTxn_wait_deinitReset (b : Resume) : (.wait (.deinitReset b) : Seq).inTxn = false := rfl
@[simp] theorem Seq.inTxn_wait_ack : (.wait .ack : Seq).inTxn = false := rfl

@[simp] theorem Seq.inOperation_op_txn (o : Owner) (p : TxnPoint) : (.op (.txn o p) : Seq).inOperation = true := rfl
@[simp] theorem Seq.inOperation_wait_txn (o : Owner) (w : TxnWait) : (.wait (.txn o w) : Seq).inOperation = true := rfl
@[simp] theorem Seq.inOperation_op_init (j : InitJob) (p : InitPoint) : (.op (.init j p) : Seq).inOperation = true := rfl
@[simp] theorem Seq.inOperation_op_deinit (b : Resume) (p : DeinitPoint) : (.op (.deinit b p) : Seq).inOperation = true := rfl
@[simp] theorem Seq.inOperation_op_test : (.op (.disp .test) : Seq).inOperation = false := rfl
@[simp] theorem Seq.inOperation_op_done : (.op (.disp .done) : Seq).inOperation = false := rfl
@[simp] theorem Seq.inOperation_idle : (.idle : Seq).inOperation = false := rfl
@[simp] theorem Seq.inOperation_wait_initReset (j : InitJob) : (.wait (.initReset j) : Seq).inOperation = true := rfl
@[simp] theorem Seq.inOperation_wait_deinitReset (b : Resume) : (.wait (.deinitReset b) : Seq).inOperation = true := rfl
@[simp] theorem Seq.inOperation_wait_ack : (.wait .ack : Seq).inOperation = false := rfl

@[simp] theorem Seq.back_op_txn (o : Owner) (p : TxnPoint) : (.op (.txn o p) : Seq).back = o.back := rfl
@[simp] theorem Seq.back_wait_txn (o : Owner) (w : TxnWait) : (.wait (.txn o w) : Seq).back = o.back := rfl
@[simp] theorem Seq.back_op_init (j : InitJob) (p : InitPoint) : (.op (.init j p) : Seq).back = some j.back := rfl
@[simp] theorem Seq.back_op_deinit (b : Resume) (p : DeinitPoint) : (.op (.deinit b p) : Seq).back = some b := rfl
@[simp] theorem Seq.back_op_test : (.op (.disp .test) : Seq).back = some .test := rfl
@[simp] theorem Seq.back_op_done : (.op (.disp .done) : Seq).back = some .done := rfl
@[simp] theorem Seq.back_idle : (.idle : Seq).back = some .idle := rfl
@[simp] theorem Seq.back_wait_initReset (j : InitJob) : (.wait (.initReset j) : Seq).back = some j.back := rfl
@[simp] theorem Seq.back_wait_deinitReset (b : Resume) : (.wait (.deinitReset b) : Seq).back = some b := rfl
@[simp] theorem Seq.back_wait_ack : (.wait .ack : Seq).back = some .ack := rfl

@[simp] theorem Seq.initJob_op_txn (o : Owner) (p : TxnPoint) : (.op (.txn o p) : Seq).initJob = none := rfl
@[simp] theorem Seq.initJob_wait_txn (o : Owner) (w : TxnWait) : (.wait (.txn o w) : Seq).initJob = none := rfl
@[simp] theorem Seq.initJob_op_init (j : InitJob) (p : InitPoint) : (.op (.init j p) : Seq).initJob = some j := rfl
@[simp] theorem Seq.initJob_op_deinit (b : Resume) (p : DeinitPoint) : (.op (.deinit b p) : Seq).initJob = none := rfl
@[simp] theorem Seq.initJob_op_test : (.op (.disp .test) : Seq).initJob = none := rfl
@[simp] theorem Seq.initJob_op_done : (.op (.disp .done) : Seq).initJob = none := rfl
@[simp] theorem Seq.initJob_idle : (.idle : Seq).initJob = none := rfl
@[simp] theorem Seq.initJob_wait_initReset (j : InitJob) : (.wait (.initReset j) : Seq).initJob = some j := rfl
@[simp] theorem Seq.initJob_wait_deinitReset (b : Resume) : (.wait (.deinitReset b) : Seq).initJob = none := rfl
@[simp] theorem Seq.initJob_wait_ack : (.wait .ack : Seq).initJob = none := rfl

@[simp] theorem Seq.quiet_op_txn (o : Owner) (p : TxnPoint) : (.op (.txn o p) : Seq).quiet = false := rfl
@[simp] theorem Seq.quiet_wait_txn (o : Owner) (w : TxnWait) : (.wait (.txn o w) : Seq).quiet = false := rfl
@[simp] theorem Seq.quiet_op_init (j : InitJob) (p : InitPoint) : (.op (.init j p) : Seq).quiet = false := rfl
@[simp] theorem Seq.quiet_op_deinit (b : Resume) (p : DeinitPoint) : (.op (.deinit b p) : Seq).quiet = false := rfl
@[simp] theorem Seq.quiet_op_test : (.op (.disp .test) : Seq).quiet = false := rfl
@[simp] theorem Seq.quiet_op_done : (.op (.disp .done) : Seq).quiet = false := rfl
@[simp] theorem Seq.quiet_idle : (.idle : Seq).quiet = true := rfl
@[simp] theorem Seq.quiet_wait_initReset (j : InitJob) : (.wait (.initReset j) : Seq).quiet = false := rfl
@[simp] theorem Seq.quiet_wait_deinitReset (b : Resume) : (.wait (.deinitReset b) : Seq).quiet = false := rfl
@[simp] theorem Seq.quiet_wait_ack : (.wait .ack : Seq).quiet = true := rfl

@[simp] theorem Seq.selects_wakeSel (o : Owner) : (.op (.txn o .wakeSel) : Seq).selects = false := rfl
@[simp] theorem Seq.frameIndex_wakeSel (o : Owner) : (.op (.txn o .wakeSel) : Seq).frameIndex = none := rfl
@[simp] theorem Seq.selects_wakeHold (o : Owner) : (.op (.txn o .wakeHold) : Seq).selects = true := rfl
@[simp] theorem Seq.frameIndex_wakeHold (o : Owner) : (.op (.txn o .wakeHold) : Seq).frameIndex = none := rfl
@[simp] theorem Seq.selects_wakeDesel (o : Owner) : (.op (.txn o .wakeDesel) : Seq).selects = true := rfl
@[simp] theorem Seq.frameIndex_wakeDesel (o : Owner) : (.op (.txn o .wakeDesel) : Seq).frameIndex = none := rfl
@[simp] theorem Seq.selects_frameSel (o : Owner) : (.op (.txn o .frameSel) : Seq).selects = false := rfl
@[simp] theorem Seq.frameIndex_frameSel (o : Owner) : (.op (.txn o .frameSel) : Seq).frameIndex = none := rfl
@[simp] theorem Seq.selects_linkWrite (o : Owner) (n : Nat) : (.op (.txn o (.linkWrite n)) : Seq).selects = true := rfl
@[simp] theorem Seq.frameIndex_linkWrite (o : Owner) (n : Nat) : (.op (.txn o (.linkWrite n)) : Seq).frameIndex = some n := rfl
@[simp] theorem Seq.selects_linkRead (o : Owner) (n : Nat) : (.op (.txn o (.linkRead n)) : Seq).selects = true := rfl
@[simp] theorem Seq.frameIndex_linkRead (o : Owner) (n : Nat) : (.op (.txn o (.linkRead n)) : Seq).frameIndex = some n := rfl
@[simp] theorem Seq.selects_frameDesel (o : Owner) : (.op (.txn o .frameDesel) : Seq).selects = true := rfl
@[simp] theorem Seq.frameIndex_frameDesel (o : Owner) : (.op (.txn o .frameDesel) : Seq).frameIndex = none := rfl
@[simp] theorem Seq.selects_release (o : Owner) : (.op (.txn o .release) : Seq).selects = false := rfl
@[simp] theorem Seq.frameIndex_release (o : Owner) : (.op (.txn o .release) : Seq).frameIndex = none := rfl
@[simp] theorem Seq.selects_startGate (o : Owner) : (.wait (.txn o .startGate) : Seq).selects = false := rfl
@[simp] theorem Seq.frameIndex_startGate (o : Owner) : (.wait (.txn o .startGate) : Seq).frameIndex = none := rfl
@[simp] theorem Seq.selects_txe (o : Owner) (n : Nat) : (.wait (.txn o (.txe n)) : Seq).selects = true := rfl
@[simp] theorem Seq.frameIndex_txe (o : Owner) (n : Nat) : (.wait (.txn o (.txe n)) : Seq).frameIndex = some n := rfl
@[simp] theorem Seq.selects_rxne (o : Owner) (n : Nat) : (.wait (.txn o (.rxne n)) : Seq).selects = true := rfl
@[simp] theorem Seq.frameIndex_rxne (o : Owner) (n : Nat) : (.wait (.txn o (.rxne n)) : Seq).frameIndex = some n := rfl
@[simp] theorem Seq.selects_endGate (o : Owner) : (.wait (.txn o .endGate) : Seq).selects = false := rfl
@[simp] theorem Seq.frameIndex_endGate (o : Owner) : (.wait (.txn o .endGate) : Seq).frameIndex = none := rfl
@[simp] theorem Seq.selects_op_init (j : InitJob) (p : InitPoint) : (.op (.init j p) : Seq).selects = false := rfl
@[simp] theorem Seq.frameIndex_op_init (j : InitJob) (p : InitPoint) : (.op (.init j p) : Seq).frameIndex = none := rfl
@[simp] theorem Seq.txnAt_op_init (j : InitJob) (p : InitPoint) (len : Nat) : (.op (.init j p) : Seq).txnAt len = none := rfl
@[simp] theorem Seq.selects_op_deinit (b : Resume) (p : DeinitPoint) : (.op (.deinit b p) : Seq).selects = false := rfl
@[simp] theorem Seq.frameIndex_op_deinit (b : Resume) (p : DeinitPoint) : (.op (.deinit b p) : Seq).frameIndex = none := rfl
@[simp] theorem Seq.txnAt_op_deinit (b : Resume) (p : DeinitPoint) (len : Nat) : (.op (.deinit b p) : Seq).txnAt len = none := rfl
@[simp] theorem Seq.selects_op_test : (.op (.disp .test) : Seq).selects = false := rfl
@[simp] theorem Seq.frameIndex_op_test : (.op (.disp .test) : Seq).frameIndex = none := rfl
@[simp] theorem Seq.txnAt_op_test (len : Nat) : (.op (.disp .test) : Seq).txnAt len = none := rfl
@[simp] theorem Seq.selects_op_done : (.op (.disp .done) : Seq).selects = false := rfl
@[simp] theorem Seq.frameIndex_op_done : (.op (.disp .done) : Seq).frameIndex = none := rfl
@[simp] theorem Seq.txnAt_op_done (len : Nat) : (.op (.disp .done) : Seq).txnAt len = none := rfl
@[simp] theorem Seq.selects_idle : (.idle : Seq).selects = false := rfl
@[simp] theorem Seq.frameIndex_idle : (.idle : Seq).frameIndex = none := rfl
@[simp] theorem Seq.txnAt_idle (len : Nat) : (.idle : Seq).txnAt len = none := rfl
@[simp] theorem Seq.selects_wait_initReset (j : InitJob) : (.wait (.initReset j) : Seq).selects = false := rfl
@[simp] theorem Seq.frameIndex_wait_initReset (j : InitJob) : (.wait (.initReset j) : Seq).frameIndex = none := rfl
@[simp] theorem Seq.txnAt_wait_initReset (j : InitJob) (len : Nat) : (.wait (.initReset j) : Seq).txnAt len = none := rfl
@[simp] theorem Seq.selects_wait_deinitReset (b : Resume) : (.wait (.deinitReset b) : Seq).selects = false := rfl
@[simp] theorem Seq.frameIndex_wait_deinitReset (b : Resume) : (.wait (.deinitReset b) : Seq).frameIndex = none := rfl
@[simp] theorem Seq.txnAt_wait_deinitReset (b : Resume) (len : Nat) : (.wait (.deinitReset b) : Seq).txnAt len = none := rfl
@[simp] theorem Seq.selects_wait_ack : (.wait .ack : Seq).selects = false := rfl
@[simp] theorem Seq.frameIndex_wait_ack : (.wait .ack : Seq).frameIndex = none := rfl
@[simp] theorem Seq.txnAt_wait_ack (len : Nat) : (.wait .ack : Seq).txnAt len = none := rfl
@[simp] theorem Seq.txnAt_op_txn (o : Owner) (p : TxnPoint) (len : Nat) :
    (.op (.txn o p) : Seq).txnAt len = some (o, p.position len) := rfl
@[simp] theorem Seq.txnAt_wait_txn (o : Owner) (w : TxnWait) (len : Nat) :
    (.wait (.txn o w) : Seq).txnAt len = some (o, w.position len) := rfl

@[simp] theorem Owner.back_requester (b : Resume) : (Owner.requester b).back = some b := rfl
@[simp] theorem Owner.back_dispatchGet : Owner.dispatchGet.back = none := rfl
@[simp] theorem Owner.back_dispatchClr : Owner.dispatchClr.back = none := rfl

/-! ## After a response -/

@[simp] theorem Resume.inTxn_seq (r : Resume) : r.seq.inTxn = false := by cases r <;> rfl
@[simp] theorem Resume.inOperation_seq (r : Resume) : r.seq.inOperation = false := by cases r <;> rfl
@[simp] theorem Seq.hasOperation_idle (x : OpSel) : (.idle : Seq).hasOperation x = true := rfl
@[simp] theorem Seq.hasOperation_op_txn (o : Owner) (p : TxnPoint) (x : OpSel) :
    (.op (.txn o p) : Seq).hasOperation x = o.hasOperation x := rfl
@[simp] theorem Seq.hasOperation_wait_txn (o : Owner) (w : TxnWait) (x : OpSel) :
    (.wait (.txn o w) : Seq).hasOperation x = o.hasOperation x := rfl
@[simp] theorem Seq.hasOperation_op_init (j : InitJob) (p : InitPoint) (x : OpSel) :
    (.op (.init j p) : Seq).hasOperation x = (x == .init) := rfl
@[simp] theorem Seq.hasOperation_wait_init (j : InitJob) (x : OpSel) :
    (.wait (.initReset j) : Seq).hasOperation x = (x == .init) := rfl
@[simp] theorem Seq.hasOperation_op_deinit (b : Resume) (p : DeinitPoint) (x : OpSel) :
    (.op (.deinit b p) : Seq).hasOperation x = (x == .deinit) := rfl
@[simp] theorem Seq.hasOperation_wait_deinit (b : Resume) (x : OpSel) :
    (.wait (.deinitReset b) : Seq).hasOperation x = (x == .deinit) := rfl
@[simp] theorem Seq.hasOperation_op_disp (p : DispPoint) (x : OpSel) :
    (.op (.disp p) : Seq).hasOperation x = (x == .dispatch) := rfl
@[simp] theorem Seq.hasOperation_ack (x : OpSel) : (.wait .ack : Seq).hasOperation x = (x == .dispatch) := rfl
@[simp] theorem Resume.hasOperation_seq (r : Resume) (x : OpSel) : r.seq.hasOperation (r.op x) = true := by cases r <;> rfl
/-- DISPATCH is in progress again at every place but Idle. -/
theorem Resume.op_eq (r : Resume) (x : OpSel) : r.op x = if r = .idle then x else .dispatch := by cases r <;> rfl

@[simp] theorem Resume.back_seq (r : Resume) : r.seq.back = some r := by cases r <;> rfl
@[simp] theorem Resume.selects_seq (r : Resume) : r.seq.selects = false := by cases r <;> rfl
@[simp] theorem Resume.initJob_seq (r : Resume) : r.seq.initJob = none := by cases r <;> rfl
@[simp] theorem Resume.frameIndex_seq (r : Resume) : r.seq.frameIndex = none := by cases r <;> rfl
@[simp] theorem Resume.txnAt_seq (r : Resume) (len : Nat) : r.seq.txnAt len = none := by cases r <;> rfl

/-- Outside an operation, the place an admitted operation returns to is the one a requester's operation holds. -/
theorem Seq.back_of_not_inOperation {q : Seq} (h : q.inOperation = false) : q.back = some q.resume := by
  cases q with
  | idle => rfl
  | op k => cases k with
    | txn o p => cases h
    | init j p => cases h
    | deinit b p => cases h
    | disp p => cases p <;> rfl
  | wait k => cases k with
    | txn o w => cases h
    | initReset j => cases h
    | deinitReset b => cases h
    | ack => rfl

theorem Seq.inOperation_of_inTxn {q : Seq} (h : q.inTxn = true) : q.inOperation = true := by
  cases q with
  | idle => cases h
  | op k => cases k <;> first | rfl | cases h
  | wait k => cases k <;> first | rfl | cases h

theorem Seq.selects_of_not_inOperation {q : Seq} (h : q.inOperation = false) : q.selects = false := by
  cases q with
  | idle => rfl
  | op k => cases k with
    | txn o p => cases h
    | init j p => rfl
    | deinit b p => rfl
    | disp p => rfl
  | wait k => cases k with
    | txn o w => cases h
    | initReset j => rfl
    | deinitReset b => rfl
    | ack => rfl

theorem Seq.inOperation_of_quiet {q : Seq} (h : q.quiet = true) : q.inOperation = false := by
  obtain rfl | rfl := Seq.quiet_iff.1 h <;> rfl

/-! ## After a position of the frame -/

section
variable (o : Owner) (n : Nat) (s : State)

theorem positionSeq_cases :
    (n < frameLength s ∧ positionSeq o n s = .wait (.txn o (.txe n))) ∨
      (¬ n < frameLength s ∧ positionSeq o n s = .op (.txn o .frameDesel)) := by
  unfold positionSeq
  by_cases h : n < frameLength s <;> simp [h]

@[simp] theorem inTxn_positionSeq : (positionSeq o n s).inTxn = true := by unfold positionSeq; split <;> rfl
@[simp] theorem inOperation_positionSeq : (positionSeq o n s).inOperation = true := by unfold positionSeq; split <;> rfl
@[simp] theorem back_positionSeq : (positionSeq o n s).back = o.back := by unfold positionSeq; split <;> rfl
@[simp] theorem selects_positionSeq : (positionSeq o n s).selects = true := by unfold positionSeq; split <;> rfl
@[simp] theorem initJob_positionSeq : (positionSeq o n s).initJob = none := by unfold positionSeq; split <;> rfl
end

/-! ## After a bounded wait -/

section
variable {k : WaitPoint} (c : Bool)

theorem WaitPoint.faultKind_ne_none (h : k ≠ .ack) : ∃ f, k.faultKind = some f := by
  cases k with
  | txn o w => cases w <;> exact ⟨_, rfl⟩
  | initReset j => exact ⟨_, rfl⟩
  | deinitReset b => exact ⟨_, rfl⟩
  | ack => exact absurd rfl h

theorem WaitPoint.ne_ack {f : FaultKind} (h : k.faultKind = some f) : k ≠ .ack := by
  rintro rfl; cases h

theorem inTxn_after (h : k ≠ .ack) : (Seq.op (k.after c)).inTxn = (Seq.wait k).inTxn := by
  cases k with
  | txn o w => cases w <;> rfl
  | initReset j => cases c <;> rfl
  | deinitReset b => rfl
  | ack => exact absurd rfl h

theorem inOperation_after (h : k ≠ .ack) : (Seq.op (k.after c)).inOperation = (Seq.wait k).inOperation := by
  cases k with
  | txn o w => cases w <;> rfl
  | initReset j => cases c <;> rfl
  | deinitReset b => rfl
  | ack => exact absurd rfl h

theorem hasOperation_after (x : OpSel) (h : k ≠ .ack) :
    (Seq.op (k.after c)).hasOperation x = (Seq.wait k).hasOperation x := by
  cases k with
  | txn o w => cases w <;> rfl
  | initReset j => cases c <;> rfl
  | deinitReset b => rfl
  | ack => exact absurd rfl h

theorem back_after (h : k ≠ .ack) : (Seq.op (k.after c)).back = (Seq.wait k).back := by
  cases k with
  | txn o w => cases w <;> rfl
  | initReset j => cases c <;> rfl
  | deinitReset b => rfl
  | ack => exact absurd rfl h

theorem selects_after (h : k ≠ .ack) : (Seq.op (k.after c)).selects = (Seq.wait k).selects := by
  cases k with
  | txn o w => cases w <;> rfl
  | initReset j => cases c <;> rfl
  | deinitReset b => rfl
  | ack => exact absurd rfl h

theorem initJob_after (h : k ≠ .ack) : (Seq.op (k.after c)).initJob = (Seq.wait k).initJob := by
  cases k with
  | txn o w => cases w <;> rfl
  | initReset j => cases c <;> rfl
  | deinitReset b => rfl
  | ack => exact absurd rfl h

theorem frameIndex_after (h : k ≠ .ack) : (Seq.op (k.after c)).frameIndex = (Seq.wait k).frameIndex := by
  cases k with
  | txn o w => cases w <;> rfl
  | initReset j => cases c <;> rfl
  | deinitReset b => rfl
  | ack => exact absurd rfl h

theorem txnAt_after (len : Nat) (h : k ≠ .ack) : (Seq.op (k.after c)).txnAt len = (Seq.wait k).txnAt len := by
  cases k with
  | txn o w => cases w <;> rfl
  | initReset j => cases c <;> rfl
  | deinitReset b => rfl
  | ack => exact absurd rfl h
end

end Sys2Proof.Machine
end

