-- ==== Sys2Proof/Laws/Run.lean ====
section
/-! SUPPORT. Runs: how steps chain, and that with no request on the port every step is the controller's own. -/

namespace Sys2Proof.Machine

variable {s t u : State}

theorem runsTo_zero (s : State) : RunsTo 0 s s := rfl

/-- A run of n + 1 steps of any machine is a step and a run of n. -/
theorem coreRun_succ_iff (M : Host.Core) (n : Nat) (x y : M.State) :
    M.run (n + 1) x = .next y ↔ ∃ z, M.step x = .next z ∧ M.run n z = .next y := by
  rw [Host.Core.run]
  cases M.step x with
  | next z => exact ⟨fun h => ⟨z, rfl, h⟩, fun ⟨_, hz, h⟩ => by cases hz; exact h⟩
  | fault f => exact ⟨fun h => (nomatch h), fun ⟨_, hz, _⟩ => (nomatch hz)⟩
  | refused r => exact ⟨fun h => (nomatch h), fun ⟨_, hz, _⟩ => (nomatch hz)⟩

theorem runsTo_succ_iff {n} : RunsTo (n + 1) s u ↔ ∃ t, step s = .next t ∧ RunsTo n t u :=
  coreRun_succ_iff Sys2Proof.core n s u

theorem runsTo_succ {n} (h : step s = .next t) (h' : RunsTo n t u) : RunsTo (n + 1) s u :=
  runsTo_succ_iff.2 ⟨t, h, h'⟩

theorem runsTo_trans {n m} (h : RunsTo n s t) (h' : RunsTo m t u) : RunsTo (n + m) s u := by
  induction n generalizing s with
  | zero => cases h; simpa using h'
  | succ n ih =>
    obtain ⟨s', hs, hr⟩ := runsTo_succ_iff.1 h
    have := runsTo_succ hs (ih hr)
    rwa [Nat.add_right_comm]

/-- With an empty port a step is the controller's micro-step, whole. -/
theorem step_of_empty_port (h : s.port = []) : step s = .next (advance s) := by
  rw [step_of_not_due (by simp [h]), State.tick_port_nil _ (by rw [advance_port, h])]

theorem runsTo_advance {n} (h : s.port = []) (hr : RunsTo n (advance s) u) : RunsTo (n + 1) s u :=
  runsTo_succ (step_of_empty_port h) hr

end Sys2Proof.Machine
end

