-- ==== Sys2Proof/Tests/Slice0.lean ====
section
/-! SUPPORT. The model's own tests. Every expected value is taken from the spec, by hand: the fields of 30_encoding.md R71 and
R72, and the vectors of 95_test_vectors.md, which each test names. The theorems named `witness_…` show, for each statement
with hypotheses, a concrete state and operands that meet them all. -/

namespace Sys2Proof.Tests

open Sys2Proof
open Sys2Proof.Machine

/-! ## Well-formed requests -/

/-- A payload one byte too long for CNT is refused, for each of the three write-like requests (R74). -/
theorem test_payload_too_long_is_ill_formed :
    Instr.wellFormed Config.prescalerCodes (.wrregs 0 (List.replicate 65536 0)) = false ∧
    Instr.wellFormed Config.prescalerCodes (.setcmd 0 (List.replicate 65536 0)) = false ∧
    Instr.wellFormed Config.prescalerCodes (.wrbuf 0 (List.replicate 65536 0)) = false := by
  simp only [Instr.wellFormed, payloadFits, List.length_replicate]
  decide

/-- An INIT code that is not in PRESCALER_CODES is refused (R76 (d)). -/
theorem test_unknown_prescaler_is_ill_formed : Instr.wellFormed [0, 1] (.init 2) = false := by decide

/-- The longest payload and every default code are well-formed. -/
theorem witness_well_formed :
    Instr.wellFormed Config.prescalerCodes (.wrregs 0 (List.replicate 65535 0)) = true ∧
    Instr.wellFormed Config.prescalerCodes (.wrregs 0 []) = true ∧
    Instr.wellFormed Config.prescalerCodes (.init 7) = true := by
  refine ⟨?_, by decide, by decide⟩
  simp only [Instr.wellFormed, payloadFits, List.length_replicate]
  decide

/-! ## Decoding: words written out field by field (R71: RSV1, CNT, A16, B8, RSV0, OPSEL) -/

/-- The fields of a descriptor, written in binary, from the highest to the lowest. -/
def word (rsv1 cnt a16 : BitVec 16) (b8 : BitVec 8) (rsv0 opsel : BitVec 4) : BitVec 64 :=
  rsv1 ++ cnt ++ a16 ++ b8 ++ rsv0 ++ opsel

theorem test_decode_wrregs : decode Config.prescalerCodes
    (word 0b0000000000000000 0b0000000000000001 0b1000000000000001 0b00000000 0b0000 0b0000) [0xFE] =
      .ok (.wrregs 0x8001 [0xFE]) := by decide

theorem test_decode_rdregs : decode Config.prescalerCodes
    (word 0b0000000000000000 0b1111111111111111 0b0000000000000000 0b00000000 0b0000 0b0001) [] =
      .ok (.rdregs 0x0000 65535) := by decide

theorem test_decode_setcmd : decode Config.prescalerCodes
    (word 0b0000000000000000 0b0000000000000010 0b0000000000000000 0b10010100 0b0000 0b0010) [0x01, 0x02] =
      .ok (.setcmd 0x94 [0x01, 0x02]) := by decide

theorem test_decode_getcmd : decode Config.prescalerCodes
    (word 0b0000000000000000 0b0000000000000001 0b0000000000000000 0b11000000 0b0000 0b0011) [] =
      .ok (.getcmd 0xC0 1) := by decide

theorem test_decode_wrbuf : decode Config.prescalerCodes
    (word 0b0000000000000000 0b0000000000000010 0b0000000000000000 0b11111111 0b0000 0b0100) [0x01, 0x02] =
      .ok (.wrbuf 0xFF [0x01, 0x02]) := by decide

theorem test_decode_rdbuf : decode Config.prescalerCodes
    (word 0b0000000000000000 0b0000000000000001 0b0000000000000000 0b00000001 0b0000 0b0101) [] =
      .ok (.rdbuf 0x01 1) := by decide

theorem test_decode_wrreg : decode Config.prescalerCodes
    (word 0b0000000000000000 0b0000000000000000 0b1111111111111111 0b01011010 0b0000 0b0110) [] =
      .ok (.wrreg 0xFFFF 0x5A) := by decide

/-- D10: CNT is unused by RDREG and ignored. -/
theorem test_decode_rdreg : decode Config.prescalerCodes
    (word 0b0000000000000000 0b0000000000000101 0b0000100010101100 0b00000000 0b0000 0b0111) [] =
      .ok (.rdreg 0x08AC) := by decide

theorem test_decode_init : decode Config.prescalerCodes
    (word 0b0000000000000000 0b0000000000000000 0b0000000000000000 0b00000111 0b0000 0b1000) [] =
      .ok (.init 7) := by decide

/-- D9: A16 is unused by DEINIT and ignored. -/
theorem test_decode_deinit : decode Config.prescalerCodes
    (word 0b0000000000000000 0b0000000000000000 0b0001001000110100 0b00000000 0b0000 0b1001) [] = .ok .deinit := by decide

theorem test_decode_getstate : decode Config.prescalerCodes
    (word 0b0000000000000000 0b0000000000000000 0b0000000000000000 0b00000000 0b0000 0b1010) [] = .ok .getstate := by decide

theorem test_decode_geterror : decode Config.prescalerCodes
    (word 0b0000000000000000 0b0000000000000000 0b0000000000000000 0b00000000 0b0000 0b1011) [] = .ok .geterror := by decide

theorem test_decode_dispatch : decode Config.prescalerCodes
    (word 0b0000000000000000 0b0000000000000000 0b0000000000000000 0b00000000 0b0000 0b1100) [] = .ok .dispatch := by decide

/-- D1, D2, D5: the reserved selectors, which precede a bad RSV0. -/
theorem test_refuse_opsel :
    decode Config.prescalerCodes 0x000000000000000D [] = .error .opsel ∧
    decode Config.prescalerCodes 0x000000000000000F [] = .error .opsel ∧
    decode Config.prescalerCodes 0x00000000000000FD [] = .error .opsel := by decide

/-- D3, D4, and R77: (b) precedes (c). -/
theorem test_refuse_reserved :
    decode Config.prescalerCodes 0x0000000000000010 [] = .error .rsv0 ∧
    decode Config.prescalerCodes 0x0001000000000009 [] = .error .rsv1 ∧
    decode Config.prescalerCodes 0x0001000000000019 [] = .error .rsv0 := by decide

/-- D6, and R77: (d) precedes (e). -/
theorem test_refuse_prescaler :
    decode Config.prescalerCodes 0x0000000000000808 [] = .error .prescaler ∧
    decode Config.prescalerCodes 0x0000000000000808 [0x00] = .error .prescaler ∧
    decode [0, 1] 0x0000000000000208 [] = .error .prescaler := by decide

/-- D7, D8, and the empty payload where one byte is announced. -/
theorem test_refuse_payload :
    decode Config.prescalerCodes 0x0000000207400000 [0x34] = .error .payload ∧
    decode Config.prescalerCodes 0x0000000300001203 [0x00] = .error .payload ∧
    decode Config.prescalerCodes 0x0000000100000004 [] = .error .payload ∧
    decode Config.prescalerCodes 0x0000000000000009 [0x00] = .error .payload := by decide

/-! ## Small states -/

/-- The parameters of 95_test_vectors.md 1.1: the defaults, budgets 4, Sticky, Prev. -/
def par : Params :=
  { Config.params with
    busBudget := 4, busyBudget := 4, resetBudget := 4, wakeHold := 1, errPolicy := .sticky, initFailState := .prev }

/-- The state `{Ready, 0x0, 0, 0}`. -/
def ready : State := { State.create par with state := .ready, rst := false, busEnabled := true }

/-- One sample of the ideal environment. -/
def calm : Inputs :=
  { txe := true, rxne := true, rxdr := 0xA2, busy := false, busyms := true, rstst := false, evtAck := true }

/-- The radio busy, the signal valid. -/
def blocked : Inputs := { calm with busy := true }

/-- The gate of a requester's WRREG 0x08AC, 0x5A: the state its admission from `ready` leaves (R121). -/
def atGate : State :=
  { ready with
    state := .busy, lockHeld := true, op := .wrreg, addr := 0x08AC, cnt := 1, txBuf := [0x5A]
    seq := .wait (.txn (.requester .idle) .startGate), count := 4 }

/-- A field of the state an outcome leads to. -/
def field {α : Type} (f : State → α) (o : Host.Outcome State Fault Refusal) : Option α :=
  match o with
  | .next t => some (f t)
  | .fault _ => none
  | .refused _ => none

/-! ## One step each -/

/-- L1.1: the register address goes high byte first, then the payload. -/
theorem test_wrregs_frame :
    field (fun t => (frameLength t, (List.range 5).map (sentByte t))) (exec (.wrregs 0x0740 [0x34, 0x44]) ready) =
      some (5, [0x0D, 0x07, 0x40, 0x34, 0x44]) := by decide

/-- L1.1: RDREGS sends RD_DUMMY after the address and RX_DUMMY for each byte it keeps. -/
theorem test_rdregs_frame :
    field (fun t => (frameLength t, (List.range 6).map (sentByte t), (List.range 6).map (keepsByte t)))
      (exec (.rdregs 0x0740 2) ready) =
      some (6, [0x1D, 0x07, 0x40, 0x00, 0xFF, 0xFF], [false, false, false, false, true, true]) := by decide

/-- L1.3: SETCMD's frame is its opcode and its payload. -/
theorem test_setcmd_frame :
    field (fun t => (frameLength t, (List.range 2).map (sentByte t))) (exec (.setcmd 0x84 [0x04]) ready) =
      some (2, [0x84, 0x04]) := by decide

/-- S1, S3, S5: SETCMD's update of deepSleep. -/
theorem test_setcmd_deepSleep :
    let place (c : Byte) : State := { atGate with op := .setcmd, cmd := c, seq := .op (.txn (.requester .idle) .frameSel) }
    (advance (place 0x84)).deepSleep = true ∧ (advance (place 0x94)).deepSleep = true ∧
    (advance { place 0x80 with deepSleep := true }).deepSleep = false := by decide

/-- L1.8: GETCMD keeps the status byte: every position after the opcode is kept. -/
theorem test_getcmd_frame :
    field (fun t => (frameLength t, (List.range 4).map (sentByte t), (List.range 4).map (keepsByte t)))
      (exec (.getcmd 0x12 3) ready) =
      some (4, [0x12, 0xFF, 0xFF, 0xFF], [false, true, true, true]) := by decide

/-- T11. -/
theorem test_wrbuf_frame :
    field (fun t => (frameLength t, (List.range 4).map (sentByte t))) (exec (.wrbuf 0xFF [0x01, 0x02]) ready) =
      some (4, [0x0E, 0xFF, 0x01, 0x02]) := by decide

/-- L1.4. -/
theorem test_rdbuf_frame :
    field (fun t => (frameLength t, (List.range 6).map (sentByte t), (List.range 6).map (keepsByte t)))
      (exec (.rdbuf 0x10 3) ready) =
      some (6, [0x1E, 0x10, 0x00, 0xFF, 0xFF, 0xFF], [false, false, false, true, true, true]) := by decide

/-- T12. -/
theorem test_wrreg_frame :
    field (fun t => (frameLength t, (List.range 4).map (sentByte t))) (exec (.wrreg 0x08AC 0x5A) ready) =
      some (4, [0x0D, 0x08, 0xAC, 0x5A]) := by decide

/-- L1.2: a second transaction is answered Busy at once and errorCode is not touched. -/
theorem test_wrreg_busy :
    field (fun t => (t.trace, t.errorCode, t.lockHeld)) (exec (.wrreg 0x08AC 0x5A) { atGate with errorCode := 2 }) =
      some ([.respond 0 (.result .busy [])], 2, true) := by decide

/-- T13. -/
theorem test_rdreg_frame :
    field (fun t => (frameLength t, (List.range 5).map (sentByte t), (List.range 5).map (keepsByte t)))
      (exec (.rdreg 0x08AC) ready) =
      some (5, [0x1D, 0x08, 0xAC, 0x00, 0xFF], [false, false, false, false, true]) := by decide

/-- I1, I4: INIT deasserts RST only from UninitializedAfterReset. -/
theorem test_init_first_step :
    field (fun t => (advance t).rst) (exec (.init 3) (State.create par)) = some false ∧
    field (fun t => (advance t).trace) (exec (.init 0) { State.create par with state := .uninitializedAfterRFReady }) =
      some [.sel false] := by decide

/-- I2, I3: INIT's last step after a reset wait that timed out, under Prev and under Ready. -/
theorem test_init_failure :
    let place (p : Params) : State :=
      { State.create p with
        state := .busy, callFailed := true, errorCode := 1
        seq := .op (.init { code := 3, prev := .uninitializedAfterReset, back := .idle } .respond) }
    let prev := advance (place par)
    let rdy := advance (place { par with initFailState := .ready })
    (prev.state = .uninitializedAfterReset ∧ prev.errorCode = 1 ∧ prev.busEnabled = false ∧ prev.baudPrescaler = 0) ∧
    (rdy.state = .ready ∧ rdy.errorCode = 1 ∧ rdy.busEnabled = true ∧ rdy.baudPrescaler = 3 ∧ rdy.deepSleep = true) ∧
    rdy.trace = [.respond 0 (.result .error [])] := by decide

/-- I6: DEINIT disables the bus, then asserts RST. -/
theorem test_deinit_first_steps :
    field (fun t => (t.state, t.busEnabled, (advance t).rst)) (exec .deinit ready) = some (.busy, false, true) := by decide

/-- I7: errorCode is cleared after the wait that failed, and the result is Error. -/
theorem test_deinit_last_step :
    let t := advance { ready with
      state := .busy, errorCode := 1, callFailed := true, seq := .op (.deinit .idle .respond) }
    t.state = .uninitializedAfterReset ∧ t.errorCode = 0 ∧ t.trace = [.respond 0 (.result .error [])] := by decide

/-- R33: H.op is INIT, DEINIT, and DISPATCH after its CLR and after a transaction that its reaction presented. -/
theorem test_operation_in_progress :
    (field State.op (exec (.init 3) (State.create par)) = some .init) ∧
    (field State.op (exec .deinit ready) = some .deinit) ∧
    (advance { atGate with op := .setcmd, seq := .op (.txn .dispatchClr .release) }).op = .dispatch ∧
    (advance { atGate with seq := .op (.txn (.requester .ack) .release) }).op = .dispatch ∧
    (advance { atGate with seq := .op (.txn (.requester .idle) .release) }).op = .wrreg := by decide

/-- Q1, Q2, Q3. -/
theorem test_getstate :
    field State.trace (exec .getstate ready) = some [.respond 0 (.value 1)] ∧
    field State.trace (exec .getstate atGate) = some [.respond 0 (.value 2)] ∧
    field State.trace (exec .getstate (State.create par)) = some [.respond 0 (.value 0)] ∧
    field State.trace (exec .getstate { ready with state := .uninitializedAfterRFReady }) = some [.respond 0 (.value 3)] := by
  decide

/-- Q4. -/
theorem test_geterror :
    field State.trace (exec .geterror { ready with errorCode := 2 }) = some [.respond 0 (.value 2)] := by decide

/-- L1.5, X2: DISPATCH sends OPC_GET_IRQSTATUS and reads three bytes. -/
theorem test_dispatch_get :
    field (fun t => (t.dActive, t.lockHeld, frameLength t, (List.range 4).map (sentByte t))) (exec .dispatch ready) =
      some (true, true, 4, [0x12, 0xFF, 0xFF, 0xFF]) := by decide

/-- X2, X5, X7: the CLR payload and the word are the two bytes read; the bits of no source present nothing. -/
theorem test_dispatch_clear :
    let t := advance { atGate with
      dActive := true, op := .getcmd, cnt := 3, txBuf := [], rxBuf := [0xA2, 0x02, 0x03], seq := .op (.txn .dispatchGet .release) }
    t.txBuf = [0x02, 0x03] ∧ t.dWord = 0x0203 ∧
    (List.range 10).filterMap (reaction par.irq t.dWord) = [0, 1, 9] ∧
    (List.range 10).filterMap (reaction par.irq 0x3C00) = [] := by decide

/-- R240 (a): a DISPATCH before the first INIT has no move. -/
theorem test_dispatch_before_init : exec .dispatch (State.create par) = .fault .dispatchDuty := rfl

/-- W5, W6: BUSYMS = 0 opens the gate; a gate that has used its budget records RfBusyTimeout and goes on. -/
theorem test_gate :
    (advance { atGate with env := [{ blocked with busyms := false }] }).seq = .op (.txn (.requester .idle) .frameSel) ∧
    (advance { atGate with env := [blocked] }).seq = atGate.seq ∧
    (advance { atGate with count := 0 }).errorCode = 2 ∧
    (advance { atGate with count := 0 }).seq = .op (.txn (.requester .idle) .frameSel) := by decide

/-- W10: the receive register is read even after a receive-ready timeout. -/
theorem test_drain :
    let t := advance { atGate with seq := .wait (.txn (.requester .idle) (.rxne 0)), count := 0 }
    t.errorCode = 1 ∧ t.callFailed = true ∧ t.seq = .op (.txn (.requester .idle) (.linkRead 0)) := by decide

/-- R123, F2: a release after a fault answers Error with the bytes read. -/
theorem test_release_error :
    (advance { atGate with
      op := .rdreg, rxBuf := [0x77], callFailed := true, errorCode := 1
      seq := .op (.txn (.requester .idle) .release) }).trace = [.respond 0 (.result .error [0x77])] := by decide

/-! ## Witnesses: requests on the port -/

/-- A due request of requester 7. -/
def ask (d : BitVec 64) (p : List Byte) : Request := { delay := 0, who := 7, desc := d, payload := p }

theorem witness_due_request :
    let s : State := { ready with port := [ask 0x0000000008AC5A06 []] }
    s.port = [ask 0x0000000008AC5A06 []] ∧ (ask 0x0000000008AC5A06 []).delay = 0 ∧
    decode s.par.prescalerCodes (ask 0x0000000008AC5A06 []).desc (ask 0x0000000008AC5A06 []).payload =
      .ok (.wrreg 0x08AC 0x5A) := by decide

theorem witness_refused_descriptor :
    let s : State := { ready with port := [ask 0x000000000000000D []] }
    s.port = [ask 0x000000000000000D []] ∧ (ask 0x000000000000000D []).delay = 0 ∧
    decode s.par.prescalerCodes (ask 0x000000000000000D []).desc (ask 0x000000000000000D []).payload = .error .opsel := by
  decide

theorem witness_nothing_due :
    (∀ r ∈ ready.port.head?, r.delay ≠ 0) ∧
    (∀ r ∈ ({ ready with port := [{ ask 0 [] with delay := 1 }, ask 0 []] } : State).port.head?, r.delay ≠ 0) := by decide

theorem witness_table_word :
    State.reset.par.prescalerCodes = Config.prescalerCodes ∧ decodeTableWord 64 0x08AC0007 = some (.rdreg 0x08AC) := by decide

/-- Every row's bare match word is read by the decoder. -/
theorem test_table_words :
    (List.range 13).map (decodeTableWord 64) =
      [some (.wrregs 0 []), some (.rdregs 0 0), some (.setcmd 0 []), some (.getcmd 0 0), some (.wrbuf 0 []), some (.rdbuf 0 0),
       some (.wrreg 0 0), some (.rdreg 0), some (.init 0), some .deinit, some .getstate, some .geterror, some .dispatch] := by
  decide

theorem witness_creation :
    par.initialLifecycle = .uninitializedAfterReset ∧
    ({ par with initialLifecycle := .uninitializedAfterRFReady } : Params).initialLifecycle = .uninitializedAfterRFReady ∧
    State.create par = State.create par ∧ Instr.isTransaction (.wrreg 0 0) = true := ⟨rfl, rfl, rfl, rfl⟩

/-! ## Witnesses: admission -/

theorem witness_ready : ready.state = .ready ∧ ready.lockHeld = false := by decide

theorem witness_busy :
    (Instr.isTransaction (.rdreg 0) = true ∧ ((State.create par).state ≠ .ready ∨ (State.create par).lockHeld = true)) ∧
    (Instr.isTransaction (.rdreg 0) = true ∧
      (({ ready with lockHeld := true } : State).state ≠ .ready ∨ ({ ready with lockHeld := true } : State).lockHeld = true)) := by
  decide

/-- A coherent state inside a transaction. -/
theorem atGate_coherent (p : List Request) : ({ atGate with port := p } : State).Coherent :=
  ⟨.inl rfl, rfl, ⟨iff_of_true rfl rfl, fun _ h => (nomatch h)⟩, ⟨rfl, rfl⟩, rfl, rfl,
    fun _ _ h hb => by cases h; cases hb; exact Nat.le_refl 4, Nat.zero_lt_succ 9⟩

theorem witness_request_during_a_transaction :
    let s (d : BitVec 64) : State := { atGate with port := [ask d []] }
    ((s 0x0000000008AC0007).Coherent ∧ (s 0x0000000008AC0007).seq.inTxn = true ∧
      decode (s 0x0000000008AC0007).par.prescalerCodes 0x0000000008AC0007 [] = .ok (.rdreg 0x08AC)) ∧
    ((s 0x000000000000000A).Coherent ∧ (s 0x000000000000000A).seq.inTxn = true ∧
      decode (s 0x000000000000000A).par.prescalerCodes 0x000000000000000A [] = .ok .getstate) ∧
    ((s 0x000000000000000B).Coherent ∧ (s 0x000000000000000B).seq.inTxn = true ∧
      decode (s 0x000000000000000B).par.prescalerCodes 0x000000000000000B [] = .ok .geterror) ∧
    ((s 0x000000000000000C).Coherent ∧ (s 0x000000000000000C).seq.inTxn = true ∧
      decode (s 0x000000000000000C).par.prescalerCodes 0x000000000000000C [] = .ok .dispatch) ∧
    ((s 0x0000000000000308).Coherent ∧ (s 0x0000000000000308).seq.inTxn = true ∧
      decode (s 0x0000000000000308).par.prescalerCodes 0x0000000000000308 [] = .ok (.init 3)) ∧
    ((s 0x0000000000000009).Coherent ∧ (s 0x0000000000000009).seq.inTxn = true ∧
      decode (s 0x0000000000000009).par.prescalerCodes 0x0000000000000009 [] = .ok .deinit) := by
  refine ⟨⟨atGate_coherent _, ?_⟩, ⟨atGate_coherent _, ?_⟩, ⟨atGate_coherent _, ?_⟩, ⟨atGate_coherent _, ?_⟩,
    ⟨atGate_coherent _, ?_⟩, ⟨atGate_coherent _, ?_⟩⟩ <;> decide

/-- Answers a next state: a query, a transaction that is admitted, a DISPATCH, a DEINIT. -/
theorem witness_served :
    (∃ t, exec .getstate ready = .next t) ∧ (∃ t, exec (.wrreg 0 0) ready = .next t) ∧
    (∃ t, exec .dispatch ready = .next t) ∧ (∃ t, exec .deinit ready = .next t) := ⟨⟨_, rfl⟩, ⟨_, rfl⟩, ⟨_, rfl⟩, ⟨_, rfl⟩⟩

/-! ## Witnesses: waits and micro-steps -/

/-- W4: the predicate holds at sample 2; the boundaries 0 and count - 1. -/
theorem witness_wait_ends :
    let s (e : List Inputs) : State := { atGate with env := e }
    let k : WaitPoint := .txn (.requester .idle) .startGate
    (s []).seq = .wait k ∧ k ≠ .ack ∧ (s []).port = [] ∧
    ((∀ m, m < 2 → k.holds ((s [blocked, blocked, calm]).inputsAt m) = false) ∧ 2 < (s []).count ∧
      k.holds ((s [blocked, blocked, calm]).inputsAt 2) = true) ∧
    ((∀ m, m < 0 → k.holds ((s [calm]).inputsAt m) = false) ∧ 0 < (s []).count ∧ k.holds ((s [calm]).inputsAt 0) = true) ∧
    ((∀ m, m < 3 → k.holds ((s [blocked, blocked, blocked, calm]).inputsAt m) = false) ∧ 3 < (s []).count ∧
      k.holds ((s [blocked, blocked, blocked, calm]).inputsAt 3) = true) := by decide

/-- W6, W7: the predicate never holds; the boundary of an empty budget; a link wait. -/
theorem witness_wait_times_out :
    let k : WaitPoint := .txn (.requester .idle) .startGate
    let s : State := { atGate with env := [blocked, blocked, blocked, blocked] }
    (s.seq = .wait k ∧ k.faultKind = some .rfBusyTimeout ∧ s.port = [] ∧
      ∀ m, m < s.count → k.holds (s.inputsAt m) = false) ∧
    (({ s with count := 0 } : State).seq = .wait k ∧ ∀ m, m < ({ s with count := 0 } : State).count →
      k.holds (({ s with count := 0 } : State).inputsAt m) = false) ∧
    (WaitPoint.txn (.requester .idle) (.txe 0)).faultKind = some .timeout := by decide

theorem witness_places :
    let o : Owner := .requester .idle
    (({ atGate with seq := .op (.txn o (.linkWrite 0)) } : State).seq = .op (.txn o (.linkWrite 0))) ∧
    (({ atGate with seq := .op (.txn o (.linkRead 3)) } : State).seq = .op (.txn o (.linkRead 3))) ∧
    (({ atGate with seq := .op (.txn o .wakeSel) } : State).seq = .op (.txn o .wakeSel) ∧ atGate.port = []) ∧
    (({ atGate with seq := .op (.txn o .frameSel), op := .setcmd } : State).seq = .op (.txn o .frameSel) ∧
      ({ atGate with seq := .op (.txn o .frameSel), op := .setcmd } : State).op = .setcmd) ∧
    (({ atGate with seq := .op (.txn o .frameSel) } : State).seq = .op (.txn o .frameSel) ∧ atGate.op ≠ .setcmd) ∧
    (({ atGate with seq := .op (.txn o .release) } : State).seq = .op (.txn o .release)) := by decide

theorem witness_final_gate :
    let s : State := { atGate with seq := .op (.txn (.requester .idle) .frameDesel) }
    let z : State := { s with op := .setcmd, cmd := 0x84 }
    (z.seq = .op (.txn (.requester .idle) .frameDesel) ∧ z.op = .setcmd ∧ z.cmd = z.par.opcSetSleep) ∧
    (s.seq = .op (.txn (.requester .idle) .frameDesel) ∧ ¬ (s.op = .setcmd ∧ s.cmd = s.par.opcSetSleep)) := by decide

theorem witness_wrapper_step :
    (∃ j, atGate.seq.txnAt (frameLength atGate) = some (.requester .idle, j)) ∧ atGate.op = .wrreg ∧ atGate.port = [] ∧
    (∃ t, step atGate = .next t) ∧ (∃ t, exec (.wrreg 0x08AC 0x5A) ready = .next t) ∧
    (∃ t, exec (.rdreg 0x08AC) ready = .next t) ∧ ({ atGate with op := .rdreg } : State).op = .rdreg :=
  ⟨⟨0, rfl⟩, rfl, rfl, ⟨_, rfl⟩, ⟨_, rfl⟩, ⟨_, rfl⟩, rfl⟩

/-! ## Witnesses: whole operations -/

/-- A Ready, unlocked, quiet controller with an empty port, in an environment ready at 14 samples: WRREG has 2 gates and 4
positions. -/
theorem witness_transaction :
    let s : State := { ready with env := List.replicate 14 calm }
    let i : Instr := .wrreg 0x08AC 0x5A
    i.isTransaction = true ∧ i.wellFormed s.par.prescalerCodes = true ∧ s.state = .ready ∧ s.lockHeld = false ∧
    s.seq.inOperation = false ∧ s.port = [] ∧ 0 < s.par.busBudget ∧ 0 < s.par.busyBudget ∧
    ∀ m, m < i.gates s.par + 3 * (i.frame s.par).length →
      (s.inputsAt m).txe = true ∧ (s.inputsAt m).rxne = true ∧ ((s.inputsAt m).busy && (s.inputsAt m).busyms) = false := by
  decide

/-- The enter-sleep command with no payload, from a sleeping radio: one gate, one position. -/
theorem witness_sleep_transaction :
    let s : State := { ready with deepSleep := true, env := List.replicate 4 calm }
    let i : Instr := .setcmd 0x84 []
    i.wellFormed s.par.prescalerCodes = true ∧ s.seq.inOperation = false ∧ s.port = [] ∧
    i.gates s.par + 3 * (i.frame s.par).length = 4 ∧
    ∀ m, m < 4 → (s.inputsAt m).txe = true ∧ (s.inputsAt m).rxne = true ∧
      ((s.inputsAt m).busy && (s.inputsAt m).busyms) = false := by decide

/-- INIT from both uninitialized states, with a reset wait that succeeds and one that fails. -/
theorem witness_init :
    let s : State := { State.create par with env := [{ calm with rstst := true }, calm] }
    let z : State := { State.create par with env := List.replicate 4 { calm with rstst := true } }
    let f : State := { State.create par with state := .uninitializedAfterRFReady }
    (s.seq.quiet = true ∧ s.state = .uninitializedAfterReset ∧ s.port = [] ∧
      ¬ ∀ m, m < s.par.resetBudget → (s.inputsAt m).rstst = true) ∧
    (z.seq.quiet = true ∧ z.state = .uninitializedAfterReset ∧ z.port = [] ∧
      (∀ m, m < z.par.resetBudget → (z.inputsAt m).rstst = true) ∧ z.par.initFailState ≠ .ready) ∧
    (f.seq.quiet = true ∧ f.state = .uninitializedAfterRFReady ∧ f.port = []) := by
  refine ⟨⟨rfl, rfl, rfl, fun h => absurd (h 1 (by decide)) (by decide)⟩, ⟨rfl, rfl, rfl, by decide, by decide⟩, rfl, rfl, rfl⟩

/-- DEINIT when quiet, Idle or in AwaitAck, with a wait that succeeds and one that fails. -/
theorem witness_deinit :
    let s : State := { ready with env := [{ calm with rstst := true }] }
    let z : State := { ready with env := List.replicate 4 calm, seq := .wait .ack }
    (s.seq.quiet = true ∧ s.port = [] ∧ ¬ ∀ m, m < s.par.resetBudget → (s.inputsAt m).rstst = false) ∧
    (z.seq.quiet = true ∧ z.port = [] ∧ ∀ m, m < z.par.resetBudget → (z.inputsAt m).rstst = false) := by
  refine ⟨⟨rfl, rfl, fun h => absurd (h 0 (by decide)) (by decide)⟩, rfl, rfl, by decide⟩

/-- A quiet controller in each of the two uninitialized states; a step of INIT and one of DEINIT. -/
theorem witness_lifecycle_steps :
    ((State.create par).seq = .idle ∧ (State.create par).state = .uninitializedAfterReset) ∧
    (({ State.create par with state := .uninitializedAfterRFReady, seq := .wait .ack } : State).seq = .wait .ack) ∧
    (let i : State :=
      { State.create par with seq := .op (.init { code := 3, prev := .uninitializedAfterReset, back := .idle } .setRst) }
     i.port = [] ∧ (∃ t, step i = .next t) ∧ ∃ j, i.seq.initJob = some j) ∧
    (let d : State := { ready with seq := .op (.deinit .idle .setRst) }
     d.port = [] ∧ (∃ t, step d = .next t) ∧ ∃ p, d.seq = .op (.deinit .idle p)) :=
  ⟨⟨rfl, rfl⟩, rfl, ⟨rfl, ⟨_, rfl⟩, _, rfl⟩, rfl, ⟨_, rfl⟩, _, rfl⟩

/-- After a DEINIT (four steps of its own) the next sample shows the radio out of reset. -/
theorem witness_cycle :
    let s : State := { ready with env := [{ calm with rstst := true }, calm] }
    s.seq.quiet = true ∧ s.port = [] ∧ ∃ t n u, exec .deinit s = .next t ∧ RunsTo n t u ∧
      u.state = .uninitializedAfterReset ∧ ∃ m, m < u.par.resetBudget ∧ (u.inputsAt m).rstst = false :=
  ⟨rfl, rfl, _, 4, _, rfl, rfl, rfl, 0, by decide, rfl⟩

/-- Both sides of every duty. -/
theorem witness_duties :
    (ready.state = .ready ∧ ready.lockHeld = false ∧ ready.dActive = false) ∧
    ¬ (atGate.state = .ready ∧ atGate.lockHeld = false ∧ atGate.dActive = false) ∧
    ((State.create par).seq = .idle ∧ (State.create par).state = .uninitializedAfterReset) ∧
    ready.state ≠ .uninitializedAfterReset ∧ ready.state ≠ .uninitializedAfterRFReady ∧
    atGate.seq ≠ .idle ∧ atGate.seq ≠ .wait .ack := by decide

/-- A step that stops, for each duty: DISPATCH inside a transaction, INIT when Ready, DEINIT inside a transaction. -/
theorem witness_stops :
    step { atGate with port := [ask 0x000000000000000C []] } = .fault .dispatchDuty ∧
    step { ready with port := [ask 0x0000000000000308 []] } = .fault .initDuty ∧
    step { atGate with port := [ask 0x0000000000000009 []] } = .fault .deinitDuty := ⟨rfl, rfl, rfl⟩

/-! ## Witnesses: the dispatcher -/

theorem witness_dispatch_accepted : ready.state = .ready ∧ ready.lockHeld = false ∧ ready.dActive = false := by decide

theorem witness_clear :
    let s : State := { atGate with seq := .op (.txn .dispatchGet .release), rxBuf := [0xA2, 0x02, 0x03] }
    s.seq = .op (.txn .dispatchGet .release) ∧ s.rxBuf = [0xA2, 0x02, 0x03] ∧
    ({ s with seq := .op (.txn .dispatchClr .release) } : State).seq = .op (.txn .dispatchClr .release) := by decide

/-- Each clause of the reaction step, at entry 0, 1, 8 and 9. -/
theorem witness_reaction_steps :
    let s (c : BitVec 4) (q : Seq) (e : List Inputs) : State := { ready with dWord := 0x0001, dCursor := c, seq := q, env := e }
    (reaction (s 0 (.op (.disp .test)) []).par.irq 0x0001 0 = some 0) ∧
    (reaction (s 1 (.op (.disp .test)) []).par.irq 0x0001 1 = none ∧ (s 1 (.op (.disp .test)) []).dCursor.toNat < 9) ∧
    (reaction (s 9 (.op (.disp .test)) []).par.irq 0x0001 9 = none ∧ (s 9 (.op (.disp .test)) []).dCursor.toNat = 9) ∧
    (((s 0 (.wait .ack) [{ calm with evtAck := false }]).inputsAt 0).evtAck = false) ∧
    (((s 8 (.wait .ack) [calm]).inputsAt 0).evtAck = true ∧ (s 8 (.wait .ack) [calm]).dCursor.toNat < 9) ∧
    (((s 9 (.wait .ack) [calm]).inputsAt 0).evtAck = true ∧ (s 9 (.wait .ack) [calm]).dCursor.toNat = 9) ∧
    ((s 9 (.op (.disp .done)) []).seq = .op (.disp .done)) := by decide

/-- A DISPATCH with budgets 1 and a consumer that acknowledges at every look. -/
theorem witness_dispatch_run :
    let s : State := { ready with par := { par with busBudget := 1, busyBudget := 1 }, env := List.replicate 35 calm }
    s.state = .ready ∧ s.lockHeld = false ∧ s.dActive = false ∧ s.evtValid = false ∧ s.seq = .idle ∧ s.port = [] ∧
    s.par.opcClrIrqStatus ≠ s.par.opcSetSleep ∧
    ∀ m, m < 4 * s.par.busyBudget + 14 * s.par.busBudget + 17 → (s.inputsAt m).evtAck = true := by decide

theorem witness_status_word : ∀ e, e ≠ IrqSource.cadDetected → (0x0100#16).getLsbD (irqBit Config.irqBits e).toNat = false := by
  intro e h
  cases e <;> first | rfl | exact absurd rfl h

theorem witness_reaction_request :
    let s : State := { ready with seq := .wait .ack, dActive := true, evtValid := true, dWord := 0x0202, dCursor := 1, evt := 1 }
    Instr.isTransaction (.rdbuf 0x00 2) = true ∧ Instr.wellFormed s.par.prescalerCodes (.rdbuf 0x00 2) = true ∧
    s.state = .ready ∧ s.lockHeld = false ∧ s.seq = .wait .ack ∧ s.port = [] := by decide

/-! ## Witnesses: invariants and rules of every step -/

theorem witness_coherent_step :
    atGate.Coherent ∧ atGate.lockHeld = atGate.seq.inTxn ∧ (∃ t, step atGate = .next t) ∧
    Instr.isTransaction (.rdreg 0) = true ∧ atGate.lockHeld = true :=
  ⟨atGate_coherent [], rfl, ⟨_, rfl⟩, rfl, rfl⟩

theorem witness_transfer_step : atGate.TransferMatches ∧ ∃ t, step atGate = .next t := by
  refine ⟨⟨rfl, fun _ h => (nomatch h), fun o j h => ?_⟩, _, rfl⟩
  cases h
  exact ⟨fun _ => rfl, rfl⟩

/-- Inside the dispatcher's GET, and in AwaitAck. -/
theorem witness_dispatcher_step :
    let g : State :=
      { atGate with
        op := .getcmd, cmd := 0x12, cnt := 3, txBuf := [], dActive := true, seq := .wait (.txn .dispatchGet .startGate) }
    let a : State := { ready with seq := .wait .ack, dWord := 0x0001, dCursor := 0, evt := 0, evtValid := true }
    (g.InnerMatches ∧ g.EventMatches ∧ ∃ t, step g = .next t) ∧ (a.InnerMatches ∧ a.EventMatches ∧ ∃ t, step a = .next t) := by
  refine ⟨⟨fun o j h => ?_, fun h => ?_, _, rfl⟩, ⟨fun o j h => ?_, fun _ => ?_, _, rfl⟩⟩
  · cases h
    exact ⟨fun _ => ⟨rfl, rfl, rfl⟩, fun h => (nomatch h)⟩
  · cases h
  · cases h
  · decide

theorem witness_deepSleep_written :
    let s : State := { atGate with op := .setcmd, cmd := 0x84, seq := .op (.txn (.requester .idle) .frameSel) }
    let r : State :=
      { State.create par with
        state := .busy, seq := .op (.init { code := 3, prev := .uninitializedAfterReset, back := .idle } .respond) }
    (∃ t, step s = .next t ∧ t.deepSleep ≠ s.deepSleep) ∧
    (∃ t, step r = .next t ∧ t.deepSleep ≠ r.deepSleep ∧ t.baudPrescaler ≠ r.baudPrescaler ∧ t.busEnabled = true ∧
      r.busEnabled = false) :=
  ⟨⟨_, rfl, by decide⟩, ⟨_, rfl, by decide, by decide, rfl, rfl⟩⟩

theorem witness_rst_and_evt_written :
    let i : State :=
      { State.create par with seq := .op (.init { code := 3, prev := .uninitializedAfterReset, back := .idle } .setRst) }
    let d : State := { ready with seq := .op (.deinit .idle .setRst) }
    let e : State := { ready with seq := .op (.disp .test), dWord := 0x0002, dCursor := 1 }
    (∃ t, step i = .next t ∧ t.rst ≠ i.rst) ∧ (∃ t, step d = .next t ∧ t.rst ≠ d.rst) ∧
    (∃ t, step e = .next t ∧ t.evt ≠ e.evt) :=
  ⟨⟨_, rfl, by decide⟩, ⟨_, rfl, by decide⟩, ⟨_, rfl, by decide⟩⟩

/-- At a gate; at the release with nothing due, which is the release; at the release with a due request, which is served first. -/
theorem witness_no_second_transaction :
    let r (p : List Request) : State := { atGate with port := p, seq := .op (.txn (.requester .idle) .release) }
    (atGate.Coherent ∧ atGate.TransferMatches ∧ atGate.seq.txnAt (frameLength atGate) = some (.requester .idle, 0) ∧
      ∃ t, step atGate = .next t) ∧
    ∀ p, (p = [] ∨ p = [ask 0x000000000000000A []]) →
      (r p).Coherent ∧ (r p).TransferMatches ∧ (r p).seq.txnAt (frameLength (r p)) = some (.requester .idle, 4) ∧
      ∃ t, step (r p) = .next t := by
  refine ⟨⟨atGate_coherent [], ⟨rfl, fun _ h => (nomatch h), fun o j h => ?_⟩, rfl, _, rfl⟩, fun p h => ⟨⟨.inl rfl, rfl,
    ⟨iff_of_true rfl rfl, fun _ h => (nomatch h)⟩, ⟨rfl, rfl⟩, rfl, rfl, fun _ _ h => (nomatch h), Nat.zero_lt_succ 9⟩,
    ⟨rfl, fun _ h => (nomatch h), fun o j h => ?_⟩, rfl, ?_⟩⟩
  · cases h
    exact ⟨fun _ => rfl, rfl⟩
  · cases h
    exact ⟨fun _ => rfl, rfl⟩
  · rcases h with rfl | rfl <;> exact ⟨_, rfl⟩

/-- R251: a run has ended with nothing presented, also where a request is still to come; not with one due, nor in AwaitAck. -/
theorem test_run_ended :
    ready.Ended ∧ ({ ready with port := [{ ask 0 [] with delay := 1 }] } : State).Ended ∧
    ¬ ({ ready with port := [ask 0 []] } : State).Ended ∧
    ¬ ({ ready with seq := .wait .ack, evtValid := true } : State).Ended := by decide

end Sys2Proof.Tests
end

section
/-! SUPPORT. Nothing stops the model but a broken host duty (spec/00_scope.md R13, spec/70_reset_and_hazards.md R240): the two
duties in the spec's words, the two outcomes a request and a step can have, and the statement assembled from them. -/

namespace Sys2Proof.Machine

variable {s : State}

/-! ## The host duties -/

theorem dispatchAllowed_iff : dispatchAllowed s = true ↔ s.state = .ready ∧ s.lockHeld = false ∧ s.dActive = false := by
  simp [dispatchAllowed, State.admits_iff, and_assoc]

theorem initAllowed_iff :
    initAllowed s = true ↔
      (s.seq = .idle ∨ s.seq = .wait .ack) ∧ (s.state = .uninitializedAfterReset ∨ s.state = .uninitializedAfterRFReady) := by
  simp [initAllowed, Seq.quiet_iff]

/-! ## The outcomes of a request and of a step -/

/-- A request answers a next state or stops; it is never refused. -/
theorem exec_next_or_fault (i : Instr) (s : State) : (∃ t, exec i s = .next t) ∨ ∃ f, exec i s = .fault f := by
  cases i with
  | init c =>
    simp only [exec, execInit]
    split
    · exact .inl ⟨_, rfl⟩
    · exact .inr ⟨_, rfl⟩
  | deinit =>
    simp only [exec, execDeinit]
    split
    · exact .inl ⟨_, rfl⟩
    · exact .inr ⟨_, rfl⟩
  | dispatch =>
    simp only [exec, execDispatch]
    split
    · exact .inl ⟨_, rfl⟩
    · exact .inr ⟨_, rfl⟩
  | _ => exact .inl ⟨_, rfl⟩

theorem exec_not_refused (i : Instr) (s : State) (m : Refusal) : exec i s ≠ .refused m := by
  intro h
  obtain ⟨t, ht⟩ | ⟨f, hf⟩ := exec_next_or_fault i s
  · cases h.symm.trans ht
  · cases h.symm.trans hf

/-- A request that has no host duty answers a next state. -/
theorem exec_next_of_no_duty {i : Instr} (hd : i ≠ .dispatch) (hi : ∀ c, i ≠ .init c) (he : i ≠ .deinit) (s : State) :
    ∃ t, exec i s = .next t := by
  refine (exec_next_or_fault i s).resolve_right fun ⟨f, hf⟩ => ?_
  obtain ⟨h, -⟩ | ⟨c, h, -⟩ | ⟨h, -⟩ := exec_fault_cases hf
  · exact hd h
  · exact hi c h
  · exact he h

/-- Everything a step can be, whatever it answers: the due request runs, a due refused descriptor sets the mark, or the
controller moves (10_state.md R25). -/
theorem step_eq_cases (s : State) :
    (∃ i r rest, step s = exec i (s.serving r rest)) ∨ (∃ r rest, step s = .next (s.serving r rest).refuse) ∨
    step s = .next (advance s).tick := by
  by_cases hn : ∀ r ∈ s.port.head?, r.delay ≠ 0
  · exact .inr (.inr (step_of_not_due hn))
  · cases hp : s.port with
    | nil => simp [hp] at hn
    | cons r rest =>
      have hd : r.delay = 0 := by simpa [hp] using hn
      cases hdec : decode s.par.prescalerCodes r.desc r.payload with
      | error e => exact .inr (.inl ⟨r, rest, step_of_refused hp hd hdec⟩)
      | ok i => exact .inl ⟨i, r, rest, step_of_due hp hd hdec⟩

theorem step_not_refused (s : State) (m : Refusal) : step s ≠ .refused m := by
  intro h
  obtain ⟨i, r, rest, he⟩ | ⟨r, rest, he⟩ | he := step_eq_cases s
  · exact exec_not_refused i _ m (he.symm.trans h)
  · cases he.symm.trans h
  · cases he.symm.trans h

/-- Settles O40: `step_fault_cases` traces a stop to a due request and `exec_fault_cases` to its broken duty; taking the
request from the port touches no register a duty reads, so the duty is broken in the state before the step. -/
theorem onlyDutyViolationsStop : Obligations.OnlyDutyViolationsStop := by
  refine ⟨fun i s => ⟨fun hd hi he => exec_next_of_no_duty hd hi he s, exec_not_refused i s⟩,
    fun s => ⟨step_not_refused s, fun hn => ⟨_, step_of_not_due hn⟩, fun f hf => ?_⟩⟩
  obtain ⟨r, rest, i, hp, hd, hdec, hstop⟩ := step_fault_cases hf
  refine ⟨r, rest, i, hp, hd, hdec, ?_⟩
  obtain ⟨hi, hfault, hduty⟩ | ⟨c, hi, hfault, hduty⟩ | ⟨hi, hfault, hduty⟩ := exec_fault_cases hstop
  · rw [← Bool.not_eq_true, dispatchAllowed_iff] at hduty
    exact .inl ⟨hi, hfault, hduty⟩
  · rw [← Bool.not_eq_true, initAllowed_iff] at hduty
    exact .inr (.inl ⟨c, hi, hfault, hduty⟩)
  · rw [← Bool.not_eq_true, Seq.quiet_iff] at hduty
    exact .inr (.inr ⟨hi, hfault, hduty⟩)

end Sys2Proof.Machine
end

section
/-! SUPPORT. Serving a request, once for all invariants: where a transaction starts, the elimination principle `exec_elim` (the
companion of `advance_elim`), and the frame of `exec`. -/

namespace Sys2Proof.Machine

variable {s t : State} {i : Instr}

/-! ## Where a transaction starts (40_bus_primitive.md R107, R108) -/

/-- The first place of a transaction: the wake toggle if the radio sleeps, else the gate. -/
def startSeq (o : Owner) (asleep : Bool) : Seq := if asleep then .op (.txn o .wakeSel) else .wait (.txn o .startGate)

theorem startTxn_eq (o : Owner) (s : State) :
    s.startTxn o =
      { s with seq := startSeq o s.deepSleep, count := if s.deepSleep then s.count else s.par.busyBudget } := by
  obtain ⟨h, e⟩ | ⟨h, e⟩ := startTxn_cases o s <;> rw [e] <;> simp [h, startSeq, State.goTo, State.goWait, WaitPoint.budget]

section
variable (o : Owner) (d : Bool)
@[simp] theorem inTxn_startSeq : (startSeq o d).inTxn = true := by cases d <;> rfl
@[simp] theorem inOperation_startSeq : (startSeq o d).inOperation = true := by cases d <;> rfl
@[simp] theorem back_startSeq : (startSeq o d).back = o.back := by cases d <;> rfl
@[simp] theorem selects_startSeq : (startSeq o d).selects = false := by cases d <;> rfl
@[simp] theorem initJob_startSeq : (startSeq o d).initJob = none := by cases d <;> rfl
@[simp] theorem frameIndex_startSeq : (startSeq o d).frameIndex = none := by cases d <;> rfl
@[simp] theorem hasOperation_startSeq (x : OpSel) : (startSeq o d).hasOperation x = o.hasOperation x := by cases d <;> rfl
@[simp] theorem txnAt_startSeq (len : Nat) : (startSeq o d).txnAt len = some (o, 0) := by cases d <;> rfl
end

/-! ## Operand loads (30_encoding.md R73, R74) -/

/-- A load and the lock acquisition write different registers. -/
theorem operandLoad_acquire (i : Instr) (s : State) : operandLoad i s.acquire = (operandLoad i s).acquire := by
  cases i <;> rfl

theorem rxBuf_operandLoad (hi : i.isTransaction = true) (s : State) : (operandLoad i s).rxBuf = [] := by
  cases i <;> first | rfl | cases hi

theorem isTransaction_op_operandLoad (hi : i.isTransaction = true) (s : State) : (operandLoad i s).op.isTransaction = true := by
  cases i <;> first | rfl | cases hi

/-! ## The elimination principle of `exec` -/

/-- Everything serving a request can do: a relation between a state and the next holds of every request that is served if it
holds in each of the cases below, each with the whole next state written out. -/
theorem exec_elim {P : State → State → Prop} (h : exec i s = .next t)
    (admitted : i.isTransaction = true → s.state = .ready → s.lockHeld = false →
      P s { s with
        lockHeld := true, state := .busy, callFailed := false
        errorCode := if s.par.errPolicy = .perOperation then 0 else s.errorCode
        op := (operandLoad i s).op, cmd := (operandLoad i s).cmd, addr := (operandLoad i s).addr
        off := (operandLoad i s).off, cnt := (operandLoad i s).cnt, txBuf := (operandLoad i s).txBuf
        rxBuf := [], client := s.asking
        seq := startSeq (.requester s.seq.resume) s.deepSleep
        count := if s.deepSleep then s.count else s.par.busyBudget })
    (answered : ∀ r, P s { s with trace := .respond s.asking r :: s.trace })
    (init : ∀ c, i = .init c → s.seq.quiet = true →
      s.state = .uninitializedAfterReset ∨ s.state = .uninitializedAfterRFReady →
      P s { s with
        state := .busy, callFailed := false, op := .init, client := s.asking
        seq := .op (.init { code := c, prev := s.state, back := s.seq.resume } (initFirst s.state)) })
    (deinit : i = .deinit → s.seq.quiet = true →
      P s { s with
        state := .busy, callFailed := false, busEnabled := false, op := .deinit, client := s.asking
        seq := .op (.deinit s.seq.resume .setRst) })
    (dispatch : i = .dispatch → s.state = .ready → s.lockHeld = false → s.dActive = false →
      P s { s with
        dActive := true, dClient := s.asking, lockHeld := true, state := .busy, callFailed := false
        errorCode := if s.par.errPolicy = .perOperation then 0 else s.errorCode
        op := .getcmd, cmd := s.par.opcGetIrqStatus, cnt := 3, txBuf := [], rxBuf := []
        seq := startSeq .dispatchGet s.deepSleep
        count := if s.deepSleep then s.count else s.par.busyBudget }) :
    P s t := by
  obtain ⟨hi, ha, rfl⟩ | ⟨-, -, rfl⟩ | ⟨c, hi, ha, rfl⟩ | ⟨hi, hq, rfl⟩ | ⟨-, rfl⟩ | ⟨-, rfl⟩ | ⟨hi, ha, rfl⟩ :=
    exec_next_cases h
  · obtain ⟨hs, hl⟩ := State.admits_iff.1 ha
    rw [startTxn_eq, operandLoad_acquire, operandLoad_eq, rxBuf_operandLoad hi]
    exact admitted hi hs hl
  · exact answered _
  · rw [initAllowed_iff, ← Seq.quiet_iff] at ha
    exact init c hi ha.1 ha.2
  · exact deinit hi hq
  · exact answered _
  · exact answered _
  · obtain ⟨hs, hl, hd⟩ := dispatchAllowed_iff.1 ha
    rw [startTxn_eq]
    exact dispatch hi hs hl hd

/-! ## The frame of `exec` -/

/-- Serving a request writes no register but those named here (10_state.md R22, R30, R38). -/
theorem exec_eq_update (h : exec i s = .next t) :
    t = { s with
      state := t.state, errorCode := t.errorCode, lockHeld := t.lockHeld, busEnabled := t.busEnabled, seq := t.seq
      op := t.op, cmd := t.cmd, addr := t.addr, off := t.off, cnt := t.cnt, txBuf := t.txBuf, rxBuf := t.rxBuf
      callFailed := t.callFailed, dActive := t.dActive, count := t.count, client := t.client, dClient := t.dClient
      trace := t.trace } := by
  apply exec_elim h <;> intros <;> rfl

end Sys2Proof.Machine
end

section
/-! SUPPORT. Which step writes which register: what a request leaves unchanged, and that the outputs, H.deepSleep and M.refused
change in the named steps only (spec/10_state.md R22, R28, R30, R36). -/

namespace Sys2Proof.Machine

variable {s t : State} {i : Instr}

/-! ## What serving a request leaves unchanged -/

theorem exec_par (h : exec i s = .next t) : t.par = s.par := (congrArg State.par (exec_eq_update h) :)
theorem exec_refused (h : exec i s = .next t) : t.refused = s.refused := (congrArg State.refused (exec_eq_update h) :)
theorem exec_deepSleep (h : exec i s = .next t) : t.deepSleep = s.deepSleep := (congrArg State.deepSleep (exec_eq_update h) :)
theorem exec_rst (h : exec i s = .next t) : t.rst = s.rst := (congrArg State.rst (exec_eq_update h) :)
theorem exec_evt (h : exec i s = .next t) : t.evt = s.evt := (congrArg State.evt (exec_eq_update h) :)

theorem exec_busEnabled (h : exec i s = .next t) : i ≠ .deinit → t.busEnabled = s.busEnabled := by
  apply exec_elim h
  case deinit => exact fun hi _ hne => absurd hi hne
  all_goals intros; rfl

theorem exec_dActive (h : exec i s = .next t) : i ≠ .dispatch → t.dActive = s.dActive ∧ t.dClient = s.dClient := by
  apply exec_elim h
  case dispatch => exact fun hi _ _ _ hne => absurd hi hne
  all_goals intros; exact ⟨rfl, rfl⟩

theorem exec_trace (h : exec i s = .next t) : t.trace = s.trace ∨ ∃ x, t.trace = .respond s.asking x :: s.trace := by
  apply exec_elim h
  case answered => exact fun r => .inr ⟨r, rfl⟩
  all_goals intros; exact .inl rfl

/-- Settles O19: `exec_eq_update` names the registers a request writes; the bus enable, the dispatcher's two and the record are
the ones it writes for some requests only. -/
theorem servingARequestKeepsTheRest : Obligations.ServingARequestKeepsTheRest := by
  intro i s t h
  have e := exec_eq_update h
  exact ⟨(congrArg State.baudPrescaler e :), (congrArg State.presc e :), exec_deepSleep h, (congrArg State.sel e :), exec_rst h,
    (congrArg State.txdr e :), exec_evt h, (congrArg State.evtValid e :), (congrArg State.dStat e :), (congrArg State.dWord e :),
    (congrArg State.dCursor e :), exec_refused h, exec_par h, (congrArg State.port e :), (congrArg State.asking e :),
    (congrArg State.env e :), (congrArg State.drawn e :), exec_busEnabled h, exec_dActive h, exec_trace h⟩

/-! ## The request port -/

/-- Settles O6: `step_of_due`, whose `serving` is the bookkeeping of log entries 6 and 14. -/
theorem stepRunsTheDueRequest : Obligations.StepRunsTheDueRequest :=
  fun _ _ _ _ hport hdelay hdec => step_of_due hport hdelay hdec

theorem State.tick_cons {r rest} (h : s.port = r :: rest) :
    s.tick = { s with port := { r with delay := r.delay - 1 } :: rest } := by
  simp only [State.tick, h]

/-- Settles O8: with nothing due the controller moves, its micro-step leaves the port alone, and `tick` counts the delay down. -/
theorem stepMovesTheControllerWhenNothingIsDue : Obligations.StepMovesTheControllerWhenNothingIsDue := by
  intro s hdue
  rw [step_of_not_due hdue]
  cases hp : s.port with
  | nil =>
    have hadv : (advance s).port = [] := by rw [advance_port, hp]
    rw [State.tick_port_nil _ hadv]
    exact congrArg (fun p => Host.Outcome.next { advance s with port := p }) hadv
  | cons r rest => rw [State.tick_cons (by rw [advance_port, hp])]

/-! ## Creation (10_state.md R40) -/

theorem initialState_ne_busy (l : InitialLifecycle) : initialState l ≠ .busy := by
  cases l <;> decide

/-- Settles O10: `State.create` assigns each value; the lifecycle is the one `initialState` reads off the parameter. -/
theorem creationLeavesTheSpecValues : Obligations.CreationLeavesTheSpecValues :=
  fun _ => ⟨congrArg initialState, congrArg initialState, rfl, rfl, rfl, rfl, rfl, rfl, rfl, rfl⟩

/-- Settles O12: at creation the sequencer is Idle, so every rule about a place says only that its register is clear. -/
theorem creationIsCoherent : Obligations.CreationIsCoherent := by
  intro p
  have hbusy : (State.create p).BusyMatches :=
    ⟨iff_of_false (initialState_ne_busy p.initialLifecycle) Bool.false_ne_true, nofun⟩
  have hcount : (State.create p).CountBounded := nofun
  exact ⟨⟨.inl rfl, rfl, hbusy, ⟨rfl, rfl⟩, rfl, rfl, hcount, Nat.zero_lt_succ 9⟩,
    ⟨rfl, nofun, nofun⟩, nofun, nofun⟩

/-! ## The registers only a controller step writes -/

/-- A register that no request writes, and no taking of a request from the port, changes only in the controller's own step. -/
theorem step_eq_advance_of_ne {α : Type} {f : State → α} (hserving : ∀ (s : State) (r rest), f (s.serving r rest) = f s)
    (hrefuse : ∀ s : State, f s.refuse = f s) (hexec : ∀ {i s t}, exec i s = .next t → f t = f s)
    (h : step s = .next t) (hne : f t ≠ f s) : t = (advance s).tick := by
  obtain ⟨r, rest, i, -, -, -, hx⟩ | ⟨r, rest, e, -, -, -, rfl⟩ | ⟨-, rfl⟩ := step_next_cases h
  · exact absurd ((hexec hx).trans (hserving s r rest)) hne
  · exact absurd ((hrefuse _).trans (hserving s r rest)) hne
  · rfl

theorem advance_par (s : State) : (advance s).par = s.par := by
  apply advance_elim (P := fun s t => t.par = s.par) s
  case initRespond => intros; rw [initFinish_eq]
  all_goals intros; rfl

theorem advance_refused (s : State) : (advance s).refused = s.refused := by
  apply advance_elim (P := fun s t => t.refused = s.refused) s
  case initRespond => intros; rw [initFinish_eq]
  all_goals intros; rfl

/-- Settles O57: only a refused descriptor writes the mark; the request that is due, and whether it is refused, is fixed by the
port. -/
theorem refusedMarkIsNeverCleared : Obligations.RefusedMarkIsNeverCleared := by
  intro s t h
  obtain ⟨r, rest, i, hport, -, hdec, hx⟩ | ⟨r, rest, e, hport, hdelay, hdec, rfl⟩ | ⟨hdue, rfl⟩ := step_next_cases h
  · rw [exec_par hx, exec_refused hx, State.serving_refused]
    refine ⟨rfl, (or_iff_left ?_).symm⟩
    rintro ⟨r', rest', e, hport', -, hdec'⟩
    cases hport.symm.trans hport'
    cases hdec.symm.trans hdec'
  · exact ⟨rfl, iff_of_true rfl (.inr ⟨r, rest, e, hport, hdelay, hdec⟩)⟩
  · rw [State.tick_par, State.tick_refused, advance_par, advance_refused]
    refine ⟨rfl, (or_iff_left ?_).symm⟩
    rintro ⟨r, rest, e, hport, hdelay, -⟩
    exact hdue r (by simp [hport]) hdelay

theorem advance_deepSleep (s : State) :
    (advance s).deepSleep = s.deepSleep ∨ (∃ o, s.seq = .op (.txn o .frameSel) ∧ s.op = .setcmd) ∨
      ∃ j, s.seq = .op (.init j .respond) ∧ (advance s).deepSleep = true := by
  apply advance_elim (P := fun s t => t.deepSleep = s.deepSleep ∨ (∃ o, s.seq = .op (.txn o .frameSel) ∧ s.op = .setcmd) ∨
    ∃ j, s.seq = .op (.init j .respond) ∧ t.deepSleep = true) s
  case frameSel =>
    intro o hq
    by_cases ho : s.op = .setcmd
    · exact .inr (.inl ⟨o, hq, ho⟩)
    · exact .inl (if_neg ho)
  case initRespond =>
    intro j hq
    rw [initFinish_eq]
    by_cases hc : initConfigures s = true
    · exact .inr (.inr ⟨j, hq, if_pos hc⟩)
    · exact .inl (if_neg hc)
  all_goals intros; exact .inl rfl

/-- Settles O54: no request writes H.deepSleep, and `advance_deepSleep` finds its two writers among the micro-steps. -/
theorem onlySetcmdAndInitWriteDeepSleep : Obligations.OnlySetcmdAndInitWriteDeepSleep := by
  intro s t h hne
  obtain rfl := step_eq_advance_of_ne (fun _ _ _ => rfl) (fun _ => rfl) exec_deepSleep h hne
  rw [State.tick_deepSleep] at hne ⊢
  exact (advance_deepSleep s).resolve_left hne

theorem advance_rst (s : State) :
    (advance s).rst = s.rst ∨ (∃ j, s.seq = .op (.init j .setRst) ∧ (advance s).rst = false) ∨
      ∃ b, s.seq = .op (.deinit b .setRst) ∧ (advance s).rst = true := by
  apply advance_elim (P := fun s t => t.rst = s.rst ∨ (∃ j, s.seq = .op (.init j .setRst) ∧ t.rst = false) ∨
    ∃ b, s.seq = .op (.deinit b .setRst) ∧ t.rst = true) s
  case initSetRst => exact fun j hq => .inr (.inl ⟨j, hq, rfl⟩)
  case deinitSetRst => exact fun b hq => .inr (.inr ⟨b, hq, rfl⟩)
  case initRespond => intros; rw [initFinish_eq]; exact .inl rfl
  all_goals intros; exact .inl rfl

theorem advance_busEnabled (s : State) :
    (advance s).busEnabled = s.busEnabled ∨ ∃ j, s.seq = .op (.init j .respond) := by
  apply advance_elim (P := fun s t => t.busEnabled = s.busEnabled ∨ ∃ j, s.seq = .op (.init j .respond)) s
  case initRespond => exact fun j hq => .inr ⟨j, hq⟩
  all_goals intros; exact .inl rfl

theorem advance_evt (s : State) :
    (advance s).evt = s.evt ∨ (advance s).trace = .emit (advance s).evt :: s.trace := by
  apply advance_elim (P := fun s t => t.evt = s.evt ∨ t.trace = .emit t.evt :: s.trace) s
  case testEmits => exact fun e _ _ => .inr rfl
  case initRespond => intros; rw [initFinish_eq]; exact .inl rfl
  all_goals intros; exact .inl rfl

/-- A request can only disable the bus (43_lifecycle.md R184). -/
theorem busEnabled_of_exec (h : exec i s = .next t) : t.busEnabled = true → s.busEnabled = true := by
  apply exec_elim h
  case deinit => exact fun _ _ hb => absurd hb Bool.false_ne_true
  all_goals intros; assumption

theorem step_enables_bus (h : step s = .next t) (ht : t.busEnabled = true) (hs : s.busEnabled = false) :
    ∃ j, s.seq = .op (.init j .respond) := by
  obtain ⟨r, rest, i, -, -, -, hx⟩ | ⟨r, rest, e, -, -, -, rfl⟩ | ⟨-, rfl⟩ := step_next_cases h
  · exact absurd ((busEnabled_of_exec hx ht).symm.trans hs) Bool.noConfusion
  · exact absurd (ht.symm.trans hs) Bool.noConfusion
  · rw [State.tick_busEnabled] at ht
    exact (advance_busEnabled s).resolve_left fun he => Bool.noConfusion ((he.symm.trans ht).symm.trans hs)

/-- Settles O56: no request writes RST or EVT, none enables the bus, and each of the three has its writers among the
micro-steps. -/
theorem resetLineBusEnableAndEventWriters : Obligations.ResetLineBusEnableAndEventWriters := by
  refine fun s t h => ⟨fun hne => ?_, step_enables_bus h, fun hne => ?_⟩
  · obtain rfl := step_eq_advance_of_ne (fun _ _ _ => rfl) (fun _ => rfl) exec_rst h hne
    rw [State.tick_rst] at hne ⊢
    exact (advance_rst s).resolve_left hne
  · obtain rfl := step_eq_advance_of_ne (fun _ _ _ => rfl) (fun _ => rfl) exec_evt h hne
    rw [State.tick_evt] at hne
    rw [State.tick_evt, State.tick_trace]
    exact (advance_evt s).resolve_left hne

end Sys2Proof.Machine
end

section
/-! SUPPORT. The coherence of the Handle and the sequencer is kept by every step (spec/10_state.md R22 to R35): a step invariant is
shown for requests and for micro-steps apart, and each rule of `State.Coherent` by itself. -/

namespace Sys2Proof.Machine

variable {s t : State} {i : Instr}

/-! ## Invariants of a step -/

theorem payloadFits_of_length {p : List Byte} {n : BitVec 16} (h : p.length = n.toNat) : payloadFits p = true := by
  simpa [payloadFits, h] using n.isLt

/-- What the decoder accepts is well-formed: CNT holds the payload's length, and INIT's code is one of the set (R74, R76). -/
theorem wellFormed_of_decode {codes d p} (h : decode codes d p = .ok i) : i.wellFormed codes = true := by
  obtain ⟨o, -, -, -, hinit, hlen, rfl⟩ := decode_ok h
  cases o
  case wrregs => exact payloadFits_of_length hlen
  case setcmd => exact payloadFits_of_length hlen
  case wrbuf => exact payloadFits_of_length hlen
  case init =>
    obtain ⟨k, hk, hb⟩ := (prescalerLegal_iff _ _).1 (hinit rfl)
    simpa [assembleInstr, Instr.wellFormed, hb, prescalerByte_code] using hk
  all_goals rfl

theorem State.tick_eq_port (s : State) : ∃ p, s.tick = { s with port := p } := by
  cases hp : s.port with
  | nil => exact ⟨s.port, State.tick_port_nil s hp⟩
  | cons r rest => exact ⟨_, State.tick_cons hp⟩

/-- A rule that says nothing of the port, the requester and the refused mark is kept by every step if the requests that
descriptors spell and the controller's own steps keep it. -/
theorem step_invariant {I : State → Prop}
    (hport : ∀ (s : State) (p : List Request) (who : Nat) (mark : Bool),
      I s → I { s with port := p, asking := who, refused := mark })
    (hexec : ∀ {i s t}, i.wellFormed s.par.prescalerCodes = true → exec i s = .next t → I s → I t)
    (hadvance : ∀ {s}, I s → I (advance s)) (h : step s = .next t) (hs : I s) : I t := by
  obtain ⟨r, rest, i, -, -, hdec, hx⟩ | ⟨r, rest, e, -, -, -, rfl⟩ | ⟨-, rfl⟩ := step_next_cases h
  · exact hexec (s := s.serving r rest) (wellFormed_of_decode hdec) hx (hport s rest r.who s.refused hs)
  · exact hport s rest r.who true hs
  · obtain ⟨p, hp⟩ := State.tick_eq_port (advance s)
    rw [hp]
    exact hport _ p _ _ (hadvance hs)

/-! ## The lock (R29) -/

theorem Seq.inTxn_of_quiet {q : Seq} (h : q.quiet = true) : q.inTxn = false := by
  obtain rfl | rfl := Seq.quiet_iff.1 h <;> rfl

theorem exec_keeps_lock (h : exec i s = .next t) : s.LockMatches → t.LockMatches := by
  apply exec_elim h
  case admitted => exact fun _ _ _ _ => (inTxn_startSeq _ _).symm
  case dispatch => exact fun _ _ _ _ _ => (inTxn_startSeq _ _).symm
  case answered => exact fun _ hs => hs
  case init => exact fun _ _ hq _ hs => hs.trans (Seq.inTxn_of_quiet hq)
  case deinit => exact fun _ hq hs => hs.trans (Seq.inTxn_of_quiet hq)

theorem advance_keeps_lock : s.LockMatches → (advance s).LockMatches := by
  apply advance_elim (P := fun s t => s.LockMatches → t.LockMatches) s
  -- the micro-steps that write the lock
  case releaseRequester => exact fun back _ _ => (Resume.inTxn_seq back).symm
  case releaseGet => exact fun _ _ => (inTxn_startSeq .dispatchClr s.deepSleep).symm
  case releaseClr => exact fun _ _ => rfl
  case deinitRespond => exact fun back _ _ => (Resume.inTxn_seq back).symm
  case initRespond =>
    intro j hq hs
    rw [State.LockMatches, hq] at hs
    simp [State.LockMatches, initFinish_eq, hs]
  -- the others stay inside a transaction or outside it
  case waitExpired =>
    intro k f hq hf _ hs
    rwa [State.LockMatches, inTxn_after _ (WaitPoint.ne_ack hf), ← hq]
  case waitHolds =>
    intro k hq hk _ _ hs
    rwa [State.LockMatches, inTxn_after _ hk, ← hq]
  all_goals intros; simp_all [State.LockMatches, apply_ite Seq.inTxn]

/-! ## The error code (R27) -/

theorem FaultKind.code_legal (k : FaultKind) : k.code = 0 ∨ k.code = 1 ∨ k.code = 2 := by
  cases k <;> decide

/-- A choice between two legal error codes is legal. -/
theorem errorCode_ite_legal {c : Prop} [Decidable c] {a b : BitVec 32} (ha : a = 0 ∨ a = 1 ∨ a = 2)
    (hb : b = 0 ∨ b = 1 ∨ b = 2) : (if c then a else b) = 0 ∨ (if c then a else b) = 1 ∨ (if c then a else b) = 2 := by
  split <;> assumption

theorem exec_keeps_errorCode (h : exec i s = .next t) : s.ErrorCodeLegal → t.ErrorCodeLegal := by
  apply exec_elim h
  case admitted => exact fun _ _ _ hs => errorCode_ite_legal (.inl rfl) hs
  case dispatch => exact fun _ _ _ _ hs => errorCode_ite_legal (.inl rfl) hs
  all_goals intros; assumption

theorem advance_keeps_errorCode : s.ErrorCodeLegal → (advance s).ErrorCodeLegal := by
  apply advance_elim (P := fun s t => s.ErrorCodeLegal → t.ErrorCodeLegal) s
  case waitExpired => exact fun _ f _ _ _ _ => f.code_legal
  case releaseGet => exact fun _ hs => errorCode_ite_legal (.inl rfl) hs
  case deinitRespond => exact fun _ _ _ => .inl rfl
  case initRespond =>
    intro j _ hs
    rw [initFinish_eq]
    exact errorCode_ite_legal (errorCode_ite_legal hs (.inl rfl)) hs
  all_goals intros; assumption

/-! ## Busy (R26) -/

theorem State.BusyMatches.not_inOperation (hs : s.BusyMatches) (hready : s.state = .ready) : s.seq.inOperation = false := by
  rw [← Bool.not_eq_true, ← hs.1, hready]
  decide

theorem busyMatches_of_start {o d} (hq : t.seq = startSeq o d) (hb : t.state = .busy) : t.BusyMatches := by
  simp [State.BusyMatches, hq, hb]

theorem exec_keeps_busy (h : exec i s = .next t) : s.BusyMatches → t.BusyMatches := by
  apply exec_elim h
  case admitted => exact fun _ _ _ _ => busyMatches_of_start rfl rfl
  case dispatch => exact fun _ _ _ _ _ => busyMatches_of_start rfl rfl
  case answered => exact fun _ hs => hs
  case init => exact fun c _ _ hprev _ => ⟨iff_of_true rfl rfl, fun j hj => by cases hj; exact hprev⟩
  case deinit => exact fun _ _ _ => ⟨iff_of_true rfl rfl, nofun⟩

theorem advance_keeps_busy : s.BusyMatches → (advance s).BusyMatches := by
  apply advance_elim (P := fun s t => s.BusyMatches → t.BusyMatches) s
  -- the micro-steps that write H.state
  case releaseRequester => intros; simp [State.BusyMatches]
  case releaseGet => exact fun _ _ => busyMatches_of_start (o := .dispatchClr) rfl rfl
  case releaseClr => intros; simp [State.BusyMatches]
  case deinitRespond => intros; simp [State.BusyMatches]
  case initRespond =>
    intro j hq ⟨_, hprev⟩
    have hj : j.prev = .uninitializedAfterReset ∨ j.prev = .uninitializedAfterRFReady := hprev j (by rw [hq]; rfl)
    cases hc : initConfigures s <;> obtain h | h := hj <;> simp [State.BusyMatches, initFinish_eq, hc, h]
  -- the others stay inside an operation, with its job, or outside one
  case waitExpired =>
    intro k f hq hf _ hs
    rw [State.BusyMatches, hq] at hs
    rwa [State.BusyMatches, inOperation_after _ (WaitPoint.ne_ack hf), initJob_after _ (WaitPoint.ne_ack hf)]
  case waitHolds =>
    intro k hq hk _ _ hs
    rw [State.BusyMatches, hq] at hs
    rwa [State.BusyMatches, inOperation_after _ hk, initJob_after _ hk]
  all_goals intros; simp_all [State.BusyMatches, apply_ite Seq.inOperation, apply_ite Seq.initJob]

/-! ## DISPATCH in progress, and the event that waits (R34, 42_dispatcher.md R166) -/

theorem dispatchMatches_iff :
    s.DispatchMatches ↔
      (s.dActive = true ↔ s.seq.back ≠ some .idle) ∧ (s.evtValid = true ↔ s.seq.back = some .ack) :=
  and_congr (Bool.eq_iff_iff.trans (by simp [Seq.inDispatch])) (Bool.eq_iff_iff.trans (by simp [Seq.awaitsAck]))

/-- An operation that starts or goes on with the same place to return to. -/
theorem State.DispatchMatches.of_back_eq (hs : s.DispatchMatches) (hback : t.seq.back = s.seq.back)
    (hact : t.dActive = s.dActive) (hevt : t.evtValid = s.evtValid) : t.DispatchMatches := by
  rwa [dispatchMatches_iff, hback, hact, hevt, ← dispatchMatches_iff]

theorem exec_keeps_dispatch (hbusy : s.BusyMatches) (h : exec i s = .next t) : s.DispatchMatches → t.DispatchMatches := by
  revert hbusy
  apply exec_elim h
  case answered => exact fun _ _ hs => hs
  case admitted =>
    intro _ hready _ hbusy hs
    have hback := Seq.back_of_not_inOperation (hbusy.not_inOperation hready)
    exact hs.of_back_eq ((back_startSeq _ _).trans hback.symm) rfl rfl
  case init =>
    intro c _ hq _ _ hs
    exact hs.of_back_eq (Seq.back_of_not_inOperation (Seq.inOperation_of_quiet hq)).symm rfl rfl
  case deinit =>
    intro _ hq _ hs
    exact hs.of_back_eq (Seq.back_of_not_inOperation (Seq.inOperation_of_quiet hq)).symm rfl rfl
  case dispatch =>
    intro _ _ _ hinactive _ hs
    simp_all [dispatchMatches_iff]

theorem advance_keeps_dispatch : s.DispatchMatches → (advance s).DispatchMatches := by
  apply advance_elim (P := fun s t => s.DispatchMatches → t.DispatchMatches) s
  case waitExpired =>
    intro k f hq hf _ hs
    exact hs.of_back_eq (by rw [hq]; exact back_after _ (WaitPoint.ne_ack hf)) rfl rfl
  case waitHolds =>
    intro k hq hk _ _ hs
    exact hs.of_back_eq (by rw [hq]; exact back_after _ hk) rfl rfl
  -- the next entry, or the response after the last: inside the DISPATCH, and no event waits
  case testSilent => intros; split <;> simp_all [dispatchMatches_iff]
  case ackTaken => intros; split <;> simp_all [dispatchMatches_iff]
  all_goals intros; simp_all [dispatchMatches_iff, apply_ite Seq.back, initFinish_eq]

/-! ## Select (R30) -/

/-- Outside an operation select is deasserted; a request that starts one leaves it so. -/
theorem State.SelectMatches.of_not_inOperation (hs : s.SelectMatches) (hop : s.seq.inOperation = false)
    (hsel : t.sel = s.sel) (hq : t.seq.selects = false) : t.SelectMatches := by
  rw [State.SelectMatches, hsel, hq, hs, Seq.selects_of_not_inOperation hop]

theorem exec_keeps_select (hbusy : s.BusyMatches) (h : exec i s = .next t) : s.SelectMatches → t.SelectMatches := by
  revert hbusy
  apply exec_elim h
  case answered => exact fun _ _ hs => hs
  case admitted =>
    exact fun _ hready _ hbusy hs => hs.of_not_inOperation (hbusy.not_inOperation hready) rfl (selects_startSeq _ _)
  case dispatch =>
    exact fun _ hready _ _ hbusy hs => hs.of_not_inOperation (hbusy.not_inOperation hready) rfl (selects_startSeq _ _)
  case init => exact fun _ _ hq _ _ hs => hs.of_not_inOperation (Seq.inOperation_of_quiet hq) rfl rfl
  case deinit => exact fun _ hq _ hs => hs.of_not_inOperation (Seq.inOperation_of_quiet hq) rfl rfl

theorem advance_keeps_select : s.SelectMatches → (advance s).SelectMatches := by
  apply advance_elim (P := fun s t => s.SelectMatches → t.SelectMatches) s
  case waitExpired =>
    intro k f hq hf _ hs
    rwa [State.SelectMatches, selects_after _ (WaitPoint.ne_ack hf), ← hq]
  case waitHolds =>
    intro k hq hk _ _ hs
    rwa [State.SelectMatches, selects_after _ hk, ← hq]
  -- each other micro-step moves SEL exactly where it enters or leaves a frame or the toggle
  all_goals intros; simp_all [State.SelectMatches, apply_ite Seq.selects, initFinish_eq]

/-! ## The prescaler's two registers (R30) -/

theorem exec_keeps_prescaler (h : exec i s = .next t) : s.PrescalerMatches → t.PrescalerMatches := by
  rw [exec_eq_update h]
  exact id

theorem advance_keeps_prescaler : s.PrescalerMatches → (advance s).PrescalerMatches := by
  apply advance_elim (P := fun s t => s.PrescalerMatches → t.PrescalerMatches) s
  case initRespond =>
    intro j _ hs
    rw [initFinish_eq]
    exact congrArg (fun x => if initConfigures s then j.code else x) hs
  all_goals intros; assumption

/-! ## The wait counter (R100) -/

theorem countBounded_of_op {p} (hq : t.seq = .op p) : t.CountBounded :=
  fun _ _ hw => (nomatch hq.symm.trans hw)

/-- A wait just entered has its whole budget. -/
theorem countBounded_of_loaded {k} (hq : t.seq = .wait k) (hb : k.budget t.par = some t.count) : t.CountBounded := by
  intro k' b hw hb'
  cases hq.symm.trans hw
  exact (Option.some.inj (hb.symm.trans hb')).le

/-- After a response no bounded wait is in progress: AwaitAck has no budget. -/
theorem countBounded_of_resume {r : Resume} (hq : t.seq = r.seq) : t.CountBounded := by
  intro k b hw hb
  cases r <;> cases hq.symm.trans hw
  cases hb

theorem countBounded_of_start {o d} (hq : t.seq = startSeq o d)
    (hc : d = false → t.count = t.par.busyBudget) : t.CountBounded := by
  cases d with
  | true => exact countBounded_of_op hq
  | false => exact countBounded_of_loaded hq (congrArg some (hc rfl).symm)

theorem countBounded_of_position {o n} (hq : t.seq = positionSeq o n s)
    (hc : n < frameLength s → t.count = t.par.busBudget) : t.CountBounded := by
  obtain ⟨hn, hp⟩ | ⟨-, hp⟩ := positionSeq_cases o n s
  · exact countBounded_of_loaded (hq.trans hp) (congrArg some (hc hn).symm)
  · exact countBounded_of_op (hq.trans hp)

/-- A wait that goes on has less of its budget left. -/
theorem State.CountBounded.of_count_le (hs : s.CountBounded) (hq : t.seq = s.seq) (hp : t.par = s.par)
    (hc : t.count ≤ s.count) : t.CountBounded := by
  intro k b hw hb
  exact hc.trans (hs k b (hq ▸ hw) (hp ▸ hb))

theorem exec_keeps_count (h : exec i s = .next t) : s.CountBounded → t.CountBounded := by
  apply exec_elim h
  case answered => exact fun _ hs => hs
  case admitted => exact fun _ _ _ _ => countBounded_of_start rfl fun hd => by simp [hd]
  case dispatch => exact fun _ _ _ _ _ => countBounded_of_start rfl fun hd => by simp [hd]
  case init => exact fun _ _ _ _ _ => countBounded_of_op rfl
  case deinit => exact fun _ _ _ => countBounded_of_op rfl

theorem advance_keeps_count : s.CountBounded → (advance s).CountBounded := by
  apply advance_elim (P := fun s t => s.CountBounded → t.CountBounded) s
  case idle => exact fun _ hs => hs
  -- a wait is entered
  case wakeDesel => exact fun _ _ _ => countBounded_of_loaded rfl rfl
  case linkWrite => exact fun _ _ _ _ => countBounded_of_loaded rfl rfl
  case initSetRst => exact fun _ _ _ => countBounded_of_loaded rfl rfl
  case deinitSetRst => exact fun _ _ _ => countBounded_of_loaded rfl rfl
  case frameSel => exact fun _ _ _ => countBounded_of_position rfl fun hn => if_pos hn
  case linkRead => exact fun _ _ _ _ => countBounded_of_position rfl fun hn => if_pos hn
  case releaseGet => exact fun _ _ => countBounded_of_start (o := .dispatchClr) rfl fun hd => by simp [hd]
  case frameDesel =>
    intro o _ _
    cases hskip : skipsFinalGate s.par s.op s.cmd
    · exact countBounded_of_loaded rfl rfl
    · exact countBounded_of_op rfl
  -- a wait goes on
  case waitWaits => exact fun k _ _ _ _ hs => hs.of_count_le rfl rfl (Nat.sub_le _ _)
  case ackWaits => exact fun _ _ hs => hs
  -- no bounded wait is in progress
  case testEmits => exact fun _ _ _ _ => countBounded_of_resume (r := .ack) rfl
  case testSilent => exact fun _ _ _ => countBounded_of_op (apply_ite Seq.op _ _ _).symm
  case ackTaken => exact fun _ _ _ => countBounded_of_op (apply_ite Seq.op _ _ _).symm
  case done => exact fun _ _ => countBounded_of_resume (r := .idle) rfl
  case releaseRequester => exact fun _ _ _ => countBounded_of_resume rfl
  case initRespond => exact fun _ _ _ => countBounded_of_resume rfl
  case deinitRespond => exact fun _ _ _ => countBounded_of_resume rfl
  all_goals intros; exact countBounded_of_op rfl

/-! ## The cursor (R34, R165) -/

theorem exec_keeps_cursor (h : exec i s = .next t) : s.CursorLegal → t.CursorLegal := by
  rw [exec_eq_update h]
  exact id

/-- The next entry of the order is an index of the order. -/
theorem nextCursor_lt {c : BitVec 4} (h : c.toNat < 10) : (if c.toNat + 1 < 10 then c + 1 else c).toNat < 10 := by
  split
  · bv_omega
  · exact h

theorem advance_keeps_cursor : s.CursorLegal → (advance s).CursorLegal := by
  apply advance_elim (P := fun s t => s.CursorLegal → t.CursorLegal) s
  case releaseClr => exact fun _ _ => Nat.zero_lt_succ 9
  case testSilent => exact fun _ _ => nextCursor_lt
  case ackTaken => exact fun _ _ => nextCursor_lt
  case initRespond => intro j _ hs; rw [initFinish_eq]; exact hs
  all_goals intros; assumption

/-! ## Coherence -/

theorem exec_keeps_coherent (h : exec i s = .next t) (hs : s.Coherent) : t.Coherent := by
  obtain ⟨herror, hlock, hbusy, hdispatch, hselect, hprescaler, hcount, hcursor⟩ := hs
  exact ⟨exec_keeps_errorCode h herror, exec_keeps_lock h hlock, exec_keeps_busy h hbusy,
    exec_keeps_dispatch hbusy h hdispatch, exec_keeps_select hbusy h hselect, exec_keeps_prescaler h hprescaler,
    exec_keeps_count h hcount, exec_keeps_cursor h hcursor⟩

theorem advance_keeps_coherent (hs : s.Coherent) : (advance s).Coherent := by
  obtain ⟨herror, hlock, hbusy, hdispatch, hselect, hprescaler, hcount, hcursor⟩ := hs
  exact ⟨advance_keeps_errorCode herror, advance_keeps_lock hlock, advance_keeps_busy hbusy,
    advance_keeps_dispatch hdispatch, advance_keeps_select hselect, advance_keeps_prescaler hprescaler,
    advance_keeps_count hcount, advance_keeps_cursor hcursor⟩

/-- Settles O50: each rule of coherence is kept by requests and by micro-steps; only the rules on DISPATCH and on select need
another one, that on Busy, which says that a request is admitted outside an operation. -/
theorem everyStepKeepsCoherence : Obligations.EveryStepKeepsCoherence :=
  fun _ _ hs h => step_invariant (fun _ _ _ _ hs => hs) (fun _ => exec_keeps_coherent) advance_keeps_coherent h hs

/-- Settles O51: the rule of the lock is an invariant by itself, and an admission needs the lock free. -/
theorem everyStepKeepsTheLockRule : Obligations.EveryStepKeepsTheLockRule := by
  refine ⟨fun _ => rfl, fun s t hs h => ?_, fun i s hi hlock => ?_⟩
  · exact step_invariant (I := State.LockMatches) (fun _ _ _ _ hs => hs) (fun _ => exec_keeps_lock) advance_keeps_lock h hs
  · rw [exec_transaction hi, admission_busy (State.admits_false_iff.2 (.inr hlock))]
    rfl

end Sys2Proof.Machine
end

section
/-! SUPPORT. The transient registers stay in step with the place in the frame (spec/10_state.md R33, spec/30_encoding.md R78, R79):
three ways to reach a place at which they are (a transaction starts, none is in progress, the place moves on with the registers
kept), and the one micro-step that receives a byte. -/

namespace Sys2Proof.Machine

variable {s t : State} {i : Instr} {q q' : Seq}

/-! ## Places outside a transaction, and after a position -/

theorem Seq.frameIndex_of_not_inTxn (h : q.inTxn = false) : q.frameIndex = none := by
  cases q with
  | idle => rfl
  | op k => cases k <;> first | rfl | cases h
  | wait k => cases k <;> first | rfl | cases h

theorem Seq.txnAt_of_not_inTxn (h : q.inTxn = false) (len : Nat) : q.txnAt len = none := by
  cases q with
  | idle => rfl
  | op k => cases k <;> first | rfl | cases h
  | wait k => cases k <;> first | rfl | cases h

theorem hasOperation_positionSeq (o : Owner) (n : Nat) (s : State) (x : OpSel) :
    (positionSeq o n s).hasOperation x = o.hasOperation x := by
  unfold positionSeq; split <;> rfl

theorem frameIndex_positionSeq_lt {o n j} (h : (positionSeq o n s).frameIndex = some j) : j < frameLength s := by
  obtain ⟨hn, hp⟩ | ⟨-, hp⟩ := positionSeq_cases o n s <;> rw [hp] at h <;> cases h
  exact hn

/-- After n positions of the frame the transaction stands at position n, also where n is its end. -/
theorem txnAt_positionSeq {o n} (hn : n ≤ frameLength s) : (positionSeq o n s).txnAt (frameLength s) = some (o, n) := by
  obtain ⟨-, hp⟩ | ⟨hge, hp⟩ := positionSeq_cases o n s <;> rw [hp]
  · rfl
  · exact congrArg (fun m => some (o, m)) (Nat.le_antisymm (Nat.le_of_not_lt hge) hn)

/-! ## The three ways to reach a place -/

theorem transferMatches_of_start {o d} (hq : t.seq = startSeq o d) (hop : o.hasOperation t.op = true)
    (htx : receives t.op = false → t.txBuf.length = t.cnt.toNat) (hrx : t.rxBuf = []) : t.TransferMatches := by
  refine ⟨by rw [hq, hasOperation_startSeq, hop], fun j hj => ?_, fun o' j hj => ⟨htx, ?_⟩⟩
  · rw [hq, frameIndex_startSeq] at hj
    cases hj
  · rw [hq, txnAt_startSeq] at hj
    cases hj
    simp [hrx]

theorem transferMatches_of_not_inTxn (hq : t.seq.inTxn = false) (hop : t.seq.hasOperation t.op = true) :
    t.TransferMatches := by
  refine ⟨hop, fun j hj => ?_, fun o j hj => ?_⟩
  · cases (Seq.frameIndex_of_not_inTxn hq).symm.trans hj
  · cases (Seq.txnAt_of_not_inTxn hq _).symm.trans hj

/-- The place moves on in the same operation, at the same number of positions done, and the registers are kept. -/
theorem State.TransferMatches.move (hs : s.TransferMatches) (hq : s.seq = q)
    (hop : q'.hasOperation s.op = q.hasOperation s.op)
    (hat : q'.txnAt (frameLength s) = q.txnAt (frameLength s))
    (hidx : ∀ j, q'.frameIndex = some j → j < frameLength s) : ({ s with seq := q' } : State).TransferMatches := by
  subst hq
  obtain ⟨hsop, -, hbuf⟩ := hs
  exact ⟨hop.trans hsop, hidx, fun o j hj => hbuf o j (hat.symm.trans hj)⟩

theorem State.TransferMatches.index_lt (hs : s.TransferMatches) (hq : s.seq = q) {j : Nat} (hj : q.frameIndex = some j) :
    j < frameLength s :=
  hs.2.1 j (hq ▸ hj)

/-! ## The byte received (R78) -/

/-- A LinkRead keeps its byte exactly at an R position, so the count of kept bytes follows the position. -/
theorem length_readPosition {j : Nat} (b : Byte)
    (h : s.rxBuf.length = if receives s.op then j - (frameHeader s).length else 0) :
    (if keepsByte s j then s.rxBuf ++ [b] else s.rxBuf).length =
      if receives s.op then j + 1 - (frameHeader s).length else 0 := by
  cases hr : receives s.op <;> by_cases hj : (frameHeader s).length ≤ j <;> simp [keepsByte, hr, hj] at h ⊢ <;> omega

theorem transferMatches_linkRead {o : Owner} {j : Nat} (hs : s.TransferMatches) (hq : s.seq = .op (.txn o (.linkRead j)))
    (b : Byte) :
    ({ s with
      rxBuf := if keepsByte s j then s.rxBuf ++ [b] else s.rxBuf
      seq := positionSeq o (j + 1) s } : State).TransferMatches := by
  have hj : j < frameLength s := hs.index_lt hq rfl
  obtain ⟨hop, -, hbuf⟩ := hs
  rw [hq] at hop hbuf
  obtain ⟨htx, hrx⟩ := hbuf o j rfl
  refine ⟨(hasOperation_positionSeq o (j + 1) s s.op).trans hop, fun _ => frameIndex_positionSeq_lt, fun o' n hn => ⟨htx, ?_⟩⟩
  cases (txnAt_positionSeq (o := o) (Nat.succ_le_of_lt hj)).symm.trans hn
  exact length_readPosition b hrx

/-! ## Requests -/

/-- A request that sends a payload loads as many bytes as it announces (R74). -/
theorem length_txBuf_operandLoad {codes} (hi : i.isTransaction = true) (hwf : i.wellFormed codes = true) (s : State)
    (hr : receives (operandLoad i s).op = false) : (operandLoad i s).txBuf.length = (operandLoad i s).cnt.toNat := by
  cases i
  case wrregs a p => exact Laws.EncodeShape.fits hwf
  case setcmd c p => exact Laws.EncodeShape.fits hwf
  case wrbuf f p => exact Laws.EncodeShape.fits hwf
  case wrreg a b => rfl
  all_goals first | cases hr | cases hi

theorem exec_keeps_transfer (hwf : i.wellFormed s.par.prescalerCodes = true) (h : exec i s = .next t) :
    s.TransferMatches → t.TransferMatches := by
  revert hwf
  apply exec_elim h
  case admitted =>
    exact fun hi _ _ hwf _ =>
      transferMatches_of_start rfl (isTransaction_op_operandLoad hi s) (length_txBuf_operandLoad hi hwf s) rfl
  case dispatch => exact fun _ _ _ _ _ _ => transferMatches_of_start rfl rfl nofun rfl
  case answered => exact fun _ _ hs => hs
  case init => exact fun _ _ _ _ _ _ => transferMatches_of_not_inTxn rfl rfl
  case deinit => exact fun _ _ _ _ => transferMatches_of_not_inTxn rfl rfl

/-! ## Micro-steps -/

theorem advance_keeps_transfer : s.TransferMatches → (advance s).TransferMatches := by
  apply advance_elim (P := fun s t => s.TransferMatches → t.TransferMatches) s
  case idle => exact fun _ hs => hs
  -- a transaction, from its start to its release
  case wakeSel => exact fun o hq hs => hs.move hq rfl rfl nofun
  case wakeHold => exact fun o hq hs => hs.move hq rfl rfl nofun
  case wakeDesel => exact fun o hq hs => hs.move hq rfl rfl nofun
  case frameSel =>
    exact fun o hq hs =>
      hs.move hq (hasOperation_positionSeq o 0 s s.op) (txnAt_positionSeq (Nat.zero_le _)) fun _ => frameIndex_positionSeq_lt
  case linkWrite => exact fun o j hq hs => hs.move hq rfl rfl fun _ => hs.index_lt hq
  case linkRead => exact fun o j hq hs => transferMatches_linkRead hs hq s.inputs.rxdr
  case frameDesel =>
    intro o hq hs
    cases skipsFinalGate s.par s.op s.cmd <;> exact hs.move hq rfl rfl nofun
  case releaseRequester =>
    exact fun back _ _ => transferMatches_of_not_inTxn (Resume.inTxn_seq back) (Resume.hasOperation_seq back s.op)
  case releaseGet => exact fun _ _ => transferMatches_of_start (o := .dispatchClr) rfl rfl (fun _ => rfl) rfl
  case releaseClr => exact fun _ _ => transferMatches_of_not_inTxn rfl rfl
  -- INIT and DEINIT
  case initSetRst => exact fun j hq hs => hs.move hq rfl rfl nofun
  case initSetSel => exact fun j hq hs => hs.move hq rfl rfl nofun
  case initRespond =>
    exact fun j _ _ => transferMatches_of_not_inTxn (Resume.inTxn_seq j.back) (Resume.hasOperation_seq j.back s.op)
  case deinitSetRst => exact fun b hq hs => hs.move hq rfl rfl nofun
  case deinitSetSel => exact fun b hq hs => hs.move hq rfl rfl nofun
  case deinitRespond =>
    exact fun b _ _ => transferMatches_of_not_inTxn (Resume.inTxn_seq b) (Resume.hasOperation_seq b s.op)
  -- the dispatcher
  case testEmits => exact fun e hq _ hs => hs.move hq rfl rfl nofun
  case testSilent =>
    intro hq _ hs
    split <;> exact hs.move hq rfl rfl nofun
  case done => exact fun _ _ => transferMatches_of_not_inTxn rfl rfl
  case ackTaken =>
    intro hq _ hs
    split <;> exact hs.move hq rfl rfl nofun
  case ackWaits => exact fun _ _ hs => hs
  -- the bounded waits
  case waitExpired =>
    intro k f hq hf _ hs
    have hk := WaitPoint.ne_ack hf
    exact hs.move hq (hasOperation_after _ _ hk) (txnAt_after _ _ hk) fun _ hj =>
      hs.index_lt hq ((frameIndex_after _ hk).symm.trans hj)
  case waitHolds =>
    intro k hq hk _ _ hs
    exact hs.move hq (hasOperation_after _ _ hk) (txnAt_after _ _ hk) fun _ hj =>
      hs.index_lt hq ((frameIndex_after _ hk).symm.trans hj)
  case waitWaits => exact fun _ _ _ _ _ hs => hs

/-- Settles O52: the rule is an invariant by itself, since the requests a step runs come from the decoder and so announce the
payload they carry. -/
theorem everyStepKeepsTheTransferRule : Obligations.EveryStepKeepsTheTransferRule :=
  fun _ _ hs h => step_invariant (fun _ _ _ _ hs => hs) exec_keeps_transfer advance_keeps_transfer h hs

end Sys2Proof.Machine
end

section
/-! SUPPORT. One transaction at a time (spec/20_memory.md R57, spec/70_reset_and_hazards.md R248): inside a transaction a request
is only answered, and a micro-step that is not the release goes on in the same transaction. -/

namespace Sys2Proof.Machine

variable {s t : State} {i : Instr} {o : Owner} {j : Nat}

/-! ## The transaction that goes on -/

/-- What a transaction in progress holds fixed from its admission to its release: its requester, its operand registers and the
bytes to send (30_encoding.md R73), and the parameters its frame is made with. -/
def State.operands (s : State) :=
  (s.client, s.op, s.cmd, s.addr, s.off, s.cnt, s.txBuf, s.par)

theorem frameLength_eq_of_operands (h : t.operands = s.operands) : frameLength t = frameLength s := by
  simp only [State.operands, Prod.mk.injEq] at h
  obtain ⟨-, hop, hcmd, haddr, hoff, hcnt, -, hpar⟩ := h
  exact frameLength_congr hop hcmd haddr hoff hpar hcnt

/-- `t` stands in the transaction of `s`, whose owner is `o`, with its operands kept and at least `j` positions done. The place
is read with the frame of `s`, which is that of `t`. -/
def GoesOn (o : Owner) (j : Nat) (s t : State) : Prop :=
  t.operands = s.operands ∧ ∃ j', t.seq.txnAt (frameLength s) = some (o, j') ∧ j ≤ j'

theorem GoesOn.of_txnAt_eq (hj : s.seq.txnAt (frameLength s) = some (o, j)) (hops : t.operands = s.operands)
    (hat : t.seq.txnAt (frameLength s) = s.seq.txnAt (frameLength s)) : GoesOn o j s t :=
  ⟨hops, j, hat.trans hj, le_rfl⟩

/-! ## Requests -/

/-- A request served inside a transaction is answered, and nothing else changes: no admission and no acceptance finds the
controller Busy (41_transactions.md R121, 70_reset_and_hazards.md R240). -/
theorem exec_of_inTxn (h : exec i s = .next t) (hbusy : s.BusyMatches) (hin : s.seq.inTxn = true) :
    ∃ r, t = { s with trace := .respond s.asking r :: s.trace } := by
  have hstate : s.state ≠ .ready := fun hready =>
    absurd ((hbusy.not_inOperation hready).symm.trans (Seq.inOperation_of_inTxn hin)) Bool.false_ne_true
  have hquiet : s.seq.quiet ≠ true := fun hq => absurd ((Seq.inTxn_of_quiet hq).symm.trans hin) Bool.false_ne_true
  revert hstate hquiet
  apply exec_elim h
  case answered => exact fun r _ _ => ⟨r, rfl⟩
  case admitted => exact fun _ hready _ hstate _ => absurd hready hstate
  case dispatch => exact fun _ hready _ _ hstate _ => absurd hready hstate
  case init => exact fun _ _ hq _ _ hquiet => absurd hq hquiet
  case deinit => exact fun _ hq _ hquiet => absurd hq hquiet

/-! ## Micro-steps -/

/-- Each micro-step of a transaction but its release goes on in it. Only a LinkRead moves the position, by one and not past the
end, since its exchange is at a position of the frame. -/
theorem advance_goesOn (hs : s.TransferMatches) (hj : s.seq.txnAt (frameLength s) = some (o, j))
    (hrel : s.seq ≠ .op (.txn o .release)) : GoesOn o j s (advance s) := by
  revert hs hj hrel
  apply advance_elim (P := fun s t => s.TransferMatches → s.seq.txnAt (frameLength s) = some (o, j) →
    s.seq ≠ .op (.txn o .release) → GoesOn o j s t) s
  -- the micro-steps before and after the frame, and the first half of an exchange
  case wakeSel => exact fun _ hq _ hj _ => .of_txnAt_eq hj rfl (by rw [hq]; rfl)
  case wakeHold => exact fun _ hq _ hj _ => .of_txnAt_eq hj rfl (by rw [hq]; rfl)
  case wakeDesel => exact fun _ hq _ hj _ => .of_txnAt_eq hj rfl (by rw [hq]; rfl)
  case linkWrite => exact fun _ _ hq _ hj _ => .of_txnAt_eq hj rfl (by rw [hq]; rfl)
  case frameSel =>
    exact fun _ hq _ hj _ => .of_txnAt_eq hj rfl (by rw [hq]; exact txnAt_positionSeq (Nat.zero_le _))
  case frameDesel =>
    exact fun _ hq _ hj _ => .of_txnAt_eq hj rfl (by rw [hq]; cases skipsFinalGate s.par s.op s.cmd <;> rfl)
  -- the second half of an exchange
  case linkRead =>
    intro o' n hq hs hj _
    have hn : n < frameLength s := hs.index_lt hq rfl
    rw [hq] at hj
    cases hj
    exact ⟨rfl, n + 1, txnAt_positionSeq (Nat.succ_le_of_lt hn), Nat.le_succ n⟩
  -- the bounded waits
  case waitExpired =>
    exact fun _ _ hq hf _ _ hj _ => .of_txnAt_eq hj rfl (by rw [hq]; exact txnAt_after _ _ (WaitPoint.ne_ack hf))
  case waitHolds => exact fun _ hq hk _ _ _ hj _ => .of_txnAt_eq hj rfl (by rw [hq]; exact txnAt_after _ _ hk)
  case waitWaits => exact fun _ _ _ _ _ _ hj _ => .of_txnAt_eq hj rfl rfl
  -- the others are releases or outside a transaction
  all_goals intros; simp_all

/-! ## Steps -/

theorem Seq.inTxn_of_txnAt {q : Seq} {len : Nat} (h : q.txnAt len = some (o, j)) : q.inTxn = true := by
  refine eq_true_of_ne_false fun hout => ?_
  cases (Seq.txnAt_of_not_inTxn hout len).symm.trans h

/-- Taking a request from the port and answering or refusing it, or counting its delay down, moves no transaction. -/
theorem step_goesOn_or_release (hs : s.Coherent) (htr : s.TransferMatches)
    (hj : s.seq.txnAt (frameLength s) = some (o, j)) (h : step s = .next t) :
    GoesOn o j s t ∨
      s.seq = .op (.txn o .release) ∧ (∀ r ∈ s.port.head?, r.delay ≠ 0) ∧ t = (advance s).tick := by
  obtain ⟨-, -, hbusy, -⟩ := hs
  obtain ⟨r, rest, i, -, -, -, hx⟩ | ⟨r, rest, e, -, -, -, rfl⟩ | ⟨hdue, rfl⟩ := step_next_cases h
  · obtain ⟨x, rfl⟩ := exec_of_inTxn hx hbusy (Seq.inTxn_of_txnAt hj)
    exact .inl (.of_txnAt_eq hj rfl rfl)
  · exact .inl (.of_txnAt_eq hj rfl rfl)
  · by_cases hrel : s.seq = .op (.txn o .release)
    · exact .inr ⟨hrel, hdue, rfl⟩
    · obtain ⟨p, hp⟩ := State.tick_eq_port (advance s)
      rw [hp]
      exact .inl (advance_goesOn htr hj hrel)

/-- Settles O59: a coherent state inside a transaction admits no request, so a step answers one, moves the transaction on, or
is its release; the frame is the same before and after, since the operands are. -/
theorem noSecondTransactionBeginsWhileTheLockIsHeld : Obligations.NoSecondTransactionBeginsWhileTheLockIsHeld := by
  intro s t o j hs htr hj h
  refine (step_goesOn_or_release hs htr hj h).imp_left fun ⟨hops, j', hat, hle⟩ => ?_
  rw [← frameLength_eq_of_operands hops] at hat
  simp only [State.operands, Prod.mk.injEq] at hops
  obtain ⟨hclient, hop, hcmd, haddr, hoff, hcnt, htx, -⟩ := hops
  exact ⟨j', hat, hle, hclient, hop, hcmd, haddr, hoff, hcnt, htx⟩

end Sys2Proof.Machine
end

section
/-! SUPPORT. The descriptor and its decoder (spec/30_encoding.md R71 to R77): the row of a request is kept by encoding and by
decoding, and the decoder is its five tests in the order (a) to (e) once OPSEL selects an operation. -/

namespace Sys2Proof

open Laws (rowOf)

variable {codes : List (BitVec 3)} {d : BitVec 64} {p : List Byte} {o : OpSel} {c : BitVec 4}

/-! ## OPSEL (R72) -/

theorem OpSel.ofCode_eq_none_iff : OpSel.ofCode c = none ↔ 0xD ≤ c.toNat := by
  revert c; decide

theorem OpSel.eq_init_iff (h : OpSel.ofCode c = some o) : o = .init ↔ c.toNat = 8 := by
  rw [← code_of_ofCode h]
  cases o <;> decide

theorem OpSel.carriesPayload_iff (h : OpSel.ofCode c = some o) :
    o.carriesPayload = true ↔ c.toNat = 0 ∨ c.toNat = 2 ∨ c.toNat = 4 := by
  rw [← code_of_ofCode h]
  cases o <;> decide

/-! ## The tests of the decoder (R76) -/

theorem decode_of_ofCode_none (h : OpSel.ofCode (Desc.opsel d) = none) : decode codes d p = .error .opsel := by
  simp [decode, h]

/-- Once OPSEL selects an operation, the decoder is the tests (b) to (e) in their order. -/
theorem decode_of_ofCode_some (h : OpSel.ofCode (Desc.opsel d) = some o) :
    decode codes d p =
      if Desc.rsv0 d ≠ 0 then .error .rsv0
      else if Desc.rsv1 d ≠ 0 then .error .rsv1
      else if o = .init ∧ prescalerLegal codes (Desc.b8 d) = false then .error .prescaler
      else if p.length ≠ payloadLength o d then .error .payload
      else .ok (assembleInstr o d p) := by
  simp [decode, h]

/-- The converse of `decode_ok`: a descriptor that passes every test is accepted. -/
theorem decode_eq_ok (hop : Desc.opsel d = o.code) (h0 : Desc.rsv0 d = 0) (h1 : Desc.rsv1 d = 0)
    (hinit : o = .init → prescalerLegal codes (Desc.b8 d) = true) (hlen : p.length = payloadLength o d) :
    decode codes d p = .ok (assembleInstr o d p) := by
  have ho : OpSel.ofCode (Desc.opsel d) = some o := by rw [hop, OpSel.ofCode_code]
  have hleg : ¬ (o = .init ∧ prescalerLegal codes (Desc.b8 d) = false) := fun ⟨hi, hf⟩ => by simp [hinit hi] at hf
  simp [decode_of_ofCode_some ho, h0, h1, hleg, hlen]

/-- Test (d) in the spec's words: INIT with a byte that is no code, zero-extended. -/
theorem prescaler_refused_iff (h : OpSel.ofCode (Desc.opsel d) = some o) :
    (o = .init ∧ prescalerLegal codes (Desc.b8 d) = false) ↔
      (Desc.opsel d).toNat = 8 ∧ ¬ ∃ k ∈ codes, Desc.b8 d = k.setWidth 8 := by
  rw [OpSel.eq_init_iff h, ← prescalerLegal_iff, Bool.not_eq_true]

/-- Test (e) in the spec's words: a write-like operation announces CNT bytes, any other none (R74). -/
theorem payload_refused_iff (h : OpSel.ofCode (Desc.opsel d) = some o) :
    p.length ≠ payloadLength o d ↔
      if (Desc.opsel d).toNat = 0 ∨ (Desc.opsel d).toNat = 2 ∨ (Desc.opsel d).toNat = 4
      then p.length ≠ (Desc.cnt d).toNat else p ≠ [] := by
  rw [payloadLength]
  simp only [OpSel.carriesPayload_iff h]
  split_ifs <;> simp

/-! ## Encoding a request, and its row (R71, R72) -/

theorem opsel_encode (i : Instr) : Desc.opsel (encode i).1 = (rowOf i).code := by
  cases i <;> exact opsel_packDesc _ _ _ _

theorem rsv0_encode (i : Instr) : Desc.rsv0 (encode i).1 = 0 := by
  cases i <;> exact rsv0_packDesc _ _ _ _

theorem rsv1_encode (i : Instr) : Desc.rsv1 (encode i).1 = 0 := by
  cases i <;> exact rsv1_packDesc _ _ _ _

/-- The encoder writes every operand into the field the decoder reads it from (R73). -/
theorem assembleInstr_encode (i : Instr) : assembleInstr (rowOf i) (encode i).1 (encode i).2 = i := by
  cases i <;> simp [encode, rowOf, assembleInstr, prescalerByte_code]

/-- The byte that spells INIT's code is legal if the code is one of the set (R76 (d)). -/
theorem prescalerLegal_encode {i : Instr} (hwf : i.wellFormed codes = true) (hi : rowOf i = .init) :
    prescalerLegal codes (Desc.b8 (encode i).1) = true := by
  cases i
  case init k => exact (prescalerLegal_iff _ _).2 ⟨k, List.contains_iff_mem.1 hwf, b8_packDesc _ _ _ _⟩
  all_goals cases hi

/-- A well-formed request is encoded with the payload its descriptor announces (R74). -/
theorem length_encode {i : Instr} (hwf : i.wellFormed codes = true) :
    (encode i).2.length = payloadLength (rowOf i) (encode i).1 := by
  cases i
  case wrregs a p => exact (Laws.EncodeShape.wrregs a p).2 codes hwf
  case setcmd c p => exact (Laws.EncodeShape.setcmd c p).2 codes hwf
  case wrbuf f p => exact (Laws.EncodeShape.wrbuf f p).2 codes hwf
  all_goals rfl

/-! ## Decoding a descriptor, and its row -/

theorem rowOf_assembleInstr (o : OpSel) (d : BitVec 64) (p : List Byte) : rowOf (assembleInstr o d p) = o := by
  cases o <;> rfl

/-- An operation that carries no payload is presented with none (R74). -/
theorem payload_eq_nil (ho : o.carriesPayload = false) (hlen : p.length = payloadLength o d) : p = [] := by
  simpa [payloadLength, ho] using hlen

/-- Encoding what was assembled gives back the payload presented. -/
theorem payload_encode_assembleInstr (hlen : p.length = payloadLength o d) : (encode (assembleInstr o d p)).2 = p := by
  cases ho : o.carriesPayload
  · rw [payload_eq_nil ho hlen]
    cases o <;> rfl
  · cases o <;> first | rfl | cases ho

/-! ## A packed descriptor -/

/-- Two packed descriptors of one operation decode alike if they agree in what the operation uses: its operands, the payload
length it announces and, for INIT, the byte. -/
theorem decode_packDesc_congr {b b' : Byte} {a a' n n' : BitVec 16} (hbyte : o = .init → b = b')
    (hlen : payloadLength o (packDesc o b a n) = payloadLength o (packDesc o b' a' n'))
    (hops : assembleInstr o (packDesc o b a n) p = assembleInstr o (packDesc o b' a' n') p) :
    decode codes (packDesc o b a n) p = decode codes (packDesc o b' a' n') p := by
  have ho (b a n) : OpSel.ofCode (Desc.opsel (packDesc o b a n)) = some o := by rw [opsel_packDesc, OpSel.ofCode_code]
  have hleg : (o = .init ∧ prescalerLegal codes b = false) ↔ (o = .init ∧ prescalerLegal codes b' = false) :=
    and_congr_right fun hi => by rw [hbyte hi]
  simp only [decode_of_ofCode_some (ho _ _ _), rsv0_packDesc, rsv1_packDesc, b8_packDesc, hleg, hlen, hops]

end Sys2Proof
end

section
/-! SUPPORT. The statements about the descriptor and its decoder (spec/30_encoding.md R71 to R77, R92). -/

namespace Sys2Proof

/-- Settles O2: an encoding passes the decoder's tests, and the encoder writes each operand where the decoder reads it. -/
theorem decodeOfEncodeIsTheRequest : Obligations.DecodeOfEncodeIsTheRequest := by
  intro codes i hwf
  rw [decode_eq_ok (opsel_encode i) (rsv0_encode i) (rsv1_encode i) (prescalerLegal_encode hwf) (length_encode hwf),
    assembleInstr_encode]

/-- Settles O3: `decode_ok` gives the row and what its tests found, and the operands are read off the assembly of that row. -/
theorem decodedRequestsAreWellFormed : Obligations.DecodedRequestsAreWellFormed := by
  intro codes d p i h b8 a16 cnt
  have hwf : i.wellFormed codes = true := Machine.wellFormed_of_decode h
  obtain ⟨o, ho, h0, h1, hinit, hlen, rfl⟩ := decode_ok h
  have hop : Desc.opsel (encode (assembleInstr o d p)).1 = Desc.opsel d := by
    rw [opsel_encode, rowOf_assembleInstr, OpSel.code_of_ofCode ho]
  refine ⟨hwf, payload_encode_assembleInstr hlen, hop, h0, h1, ?_⟩
  cases o
  case wrregs => exact ⟨rfl, rfl, hlen⟩
  case setcmd => exact ⟨rfl, rfl, hlen⟩
  case wrbuf => exact ⟨rfl, rfl, hlen⟩
  case rdregs => exact ⟨rfl, rfl, payload_eq_nil rfl hlen⟩
  case getcmd => exact ⟨rfl, rfl, payload_eq_nil rfl hlen⟩
  case rdbuf => exact ⟨rfl, rfl, payload_eq_nil rfl hlen⟩
  case wrreg => exact ⟨rfl, rfl, payload_eq_nil rfl hlen⟩
  case rdreg => exact ⟨rfl, payload_eq_nil rfl hlen⟩
  case init =>
    obtain ⟨k, hk, hb⟩ := (prescalerLegal_iff _ _).1 (hinit rfl)
    have hc : (Desc.b8 d).extractLsb' 0 3 = k := by rw [hb, prescalerByte_code]
    exact ⟨(congrArg (BitVec.setWidth 8) hc).trans hb.symm, hc ▸ hk, payload_eq_nil rfl hlen⟩
  all_goals exact payload_eq_nil rfl hlen

/-- Settles O4: OPSEL selects no operation exactly in case (a), and otherwise the decoder is the tests (b) to (e) in their order,
(d) and (e) in the spec's words. -/
theorem refusalReasonIsTheFirstThatApplies : Obligations.RefusalReasonIsTheFirstThatApplies := by
  intro codes d p opsel a b c e4 e5
  cases ho : OpSel.ofCode (Desc.opsel d) with
  | none =>
    have ha : a := OpSel.ofCode_eq_none_iff.1 ho
    simp [decode_of_ofCode_none ho, ha]
  | some o =>
    have ha : ¬ a := fun ha => nomatch ho.symm.trans (OpSel.ofCode_eq_none_iff.2 ha)
    have hd : (o = .init ∧ prescalerLegal codes (Desc.b8 d) = false) ↔ e4 := prescaler_refused_iff ho
    have he : p.length ≠ payloadLength o d ↔ e5 := payload_refused_iff ho
    have hb : Desc.rsv0 d ≠ 0 ↔ b := .rfl
    have hc : Desc.rsv1 d ≠ 0 ↔ c := .rfl
    rw [decode_of_ofCode_some ho]
    simp only [hb, hc, hd, he]
    split_ifs <;> simp [*]

/-- Settles O1: the decoder is evaluated on each of the thirteen descriptors. -/
theorem encodedExamplesDecode : Obligations.EncodedExamplesDecode := by
  unfold Obligations.EncodedExamplesDecode
  decide

/-- Settles O5: the fields of a packed descriptor that vary are read neither by the operation's assembly nor by its tests. -/
theorem unusedFieldsAreIgnored : Obligations.UnusedFieldsAreIgnored := by
  intro codes b8 b8' a16 a16' cnt cnt' p
  refine ⟨?_, ?_, ?_, ?_, ?_, ?_, ?_, ?_, ?_, ?_, ?_, ?_, ?_⟩ <;>
    exact decode_packDesc_congr (by simp) (by simp [payloadLength, OpSel.carriesPayload]) (by simp [assembleInstr])

end Sys2Proof
end

section
/-! SUPPORT. Requests on the port: a refused descriptor (spec/30_encoding.md R76) and a table word (R70, log entry 19). -/

namespace Sys2Proof.Machine

/-- Settles O7: `step_of_refused`, whose `serving` is the bookkeeping of log entries 6 and 14. -/
theorem refusedDescriptorOnlySetsTheMark : Obligations.RefusedDescriptorOnlySetsTheMark :=
  fun _ _ _ _ hport hdelay hdec => step_of_refused hport hdelay hdec

theorem decode_of_decodeTableWord {nbits w : Nat} {i : Instr} (h : decodeTableWord nbits w = some i) :
    decode Config.prescalerCodes (tableDesc nbits w) (zeroPayload (tableDesc nbits w)) = .ok i := by
  unfold decodeTableWord at h
  split at h <;> cases h
  assumption

/-- Settles O9: the word placed is the due request, and taking it leaves the port as it was. -/
theorem fetchWordIsRunByTheNextStep : Obligations.FetchWordIsRunByTheNextStep := by
  intro s nbits w i hpar hw
  have hdec : decode (s.withFetchWord nbits w).par.prescalerCodes (tableDesc nbits w) (zeroPayload (tableDesc nbits w)) =
      .ok i := (congrArg (decode · _ _) hpar).trans (decode_of_decodeTableWord hw)
  rw [step_of_due (s := s.withFetchWord nbits w) rfl rfl hdec]
  rfl

end Sys2Proof.Machine
end

section
/-! SUPPORT. The frame as the table lists it (spec/30_encoding.md R78, R79): the list of positions that the transient registers
spell, and that an admission loads the registers with the frame of its request. -/

namespace Sys2Proof.Machine

variable {s t : State} {i : Instr}

/-! ## The positions the transient registers spell -/

/-- The positions after the header: R positions for a reading operation, else the bytes of H.txBuf. -/
def State.bodySlots (s : State) : List Slot :=
  if receives s.op then receiveSlots s.par s.cnt.toNat else s.txBuf.map .transmit

/-- The frame of the operation in H.op, position by position. -/
def State.slots (s : State) : List Slot := (frameHeader s).map .transmit ++ s.bodySlots

theorem bodySlots_of_sends (h : receives s.op = false) : s.bodySlots = s.txBuf.map .transmit := by
  simp [State.bodySlots, h]

theorem bodySlots_of_receives (h : receives s.op = true) : s.bodySlots = receiveSlots s.par s.cnt.toNat := by
  simp [State.bodySlots, h]

@[simp] theorem length_receiveSlots (p : Params) (n : Nat) : (receiveSlots p n).length = n := List.length_replicate

theorem length_slots (htx : receives s.op = false → s.txBuf.length = s.cnt.toNat) : s.slots.length = frameLength s := by
  rw [State.slots, List.length_append, List.length_map, frameLength]
  cases hr : receives s.op
  · rw [bodySlots_of_sends hr, List.length_map, htx hr]
  · rw [bodySlots_of_receives hr, length_receiveSlots]

/-- At every position that the registers spell, the byte sent and whether the received one is kept are those of the position. -/
theorem position_of_slots {j : Nat} {x : Slot} (h : s.slots[j]? = some x) :
    sentByte s j = x.sent ∧ keepsByte s j = x.isReceive := by
  by_cases hj : j < (frameHeader s).length
  · -- a header byte
    rw [State.slots, List.getElem?_append_left (by simpa using hj), List.getElem?_map, Option.map_eq_some_iff] at h
    obtain ⟨b, hb, rfl⟩ := h
    have hget : (frameHeader s)[j] = b := Option.some.inj ((List.getElem?_eq_getElem hj).symm.trans hb)
    simp [sentByte, keepsByte, hj, hget, Slot.sent, Slot.isReceive]
  · rw [State.slots, List.getElem?_append_right (by simpa using hj), List.length_map] at h
    have hle : (frameHeader s).length ≤ j := Nat.le_of_not_lt hj
    cases hr : receives s.op
    · -- a byte of the payload
      rw [bodySlots_of_sends hr, List.getElem?_map, Option.map_eq_some_iff] at h
      obtain ⟨b, hb, rfl⟩ := h
      simp [sentByte, keepsByte, hj, hr, hb, Slot.sent, Slot.isReceive]
    · -- an R position
      rw [bodySlots_of_receives hr] at h
      obtain rfl : x = .receive s.par.rxDummy := List.eq_of_mem_replicate (List.mem_of_getElem? h)
      simp [sentByte, keepsByte, hj, hle, hr, Slot.sent, Slot.isReceive]

/-! ## Admission -/

/-- An admission loads the registers that spell the frame of its request. -/
theorem slots_operandLoad (hi : i.isTransaction = true) (s : State) : (operandLoad i s).slots = i.frame s.par := by
  cases i <;> first | rfl | cases hi

/-- After its admission a transaction stands with its operands loaded. -/
theorem exec_admitted (hi : i.isTransaction = true) (hready : s.state = .ready) (hlock : s.lockHeld = false)
    (h : exec i s = .next t) :
    ∃ who q n, t = { (operandLoad i s).acquire with client := who, seq := q, count := n } := by
  rw [exec_transaction hi, admission_admitted (State.admits_iff.2 ⟨hready, hlock⟩), startTxn_eq, operandLoad_acquire] at h
  cases h
  exact ⟨_, _, _, rfl⟩

/-- Settles O27: the registers an admission loads spell the frame of the table, and `position_of_slots` reads it off them. -/
theorem framePositionsFollowTheTable : Obligations.FramePositionsFollowTheTable := by
  intro i s t hi hwf hready hlock h
  obtain ⟨who, q, n, rfl⟩ := exec_admitted hi hready hlock h
  rw [← slots_operandLoad hi s]
  exact ⟨(length_slots (length_txBuf_operandLoad hi hwf s)).symm, fun _ _ => position_of_slots⟩

/-! ## Frame lengths (R79) -/

/-- Settles O28: the header of each row of the table, and then the payload, or the bytes to receive. -/
theorem frameLengths : Obligations.FrameLengths := by
  intro p a n b bs
  refine ⟨?_, ?_, ?_, rfl, ?_, rfl, ?_, ?_⟩ <;> simp [Instr.frame] <;> omega

end Sys2Proof.Machine
end

section
/-! SUPPORT. The link configuration (spec/40_bus_primitive.md R105): H.busEnabled, H.baudPrescaler and H.PRESC are written and
never read, so a request and a micro-step do the same under every value of the three. -/

namespace Sys2Proof.Machine

theorem advance_of_op {s : State} {k : Point} (hq : s.seq = .op k) : advance s = opStep k s := by
  simp only [advance, hq]

/-- The same state under another link configuration. -/
def State.withLink (e : Bool) (b p : BitVec 3) (s : State) : State :=
  { s with busEnabled := e, baudPrescaler := b, presc := p }

variable (e : Bool) (b p : BitVec 3) (s : State)

/-! ## Requests -/

theorem startTxn_withLink (o : Owner) : (s.withLink e b p).startTxn o = (s.startTxn o).withLink e b p := by
  rw [startTxn_eq, startTxn_eq]
  rfl

theorem operandLoad_withLink (i : Instr) : operandLoad i (s.withLink e b p) = (operandLoad i s).withLink e b p := by
  cases i <;> rfl

theorem admission_withLink (i : Instr) :
    ∃ t, admission (operandLoad i) s = .next t ∧ admission (operandLoad i) (s.withLink e b p) = .next (t.withLink e b p) := by
  cases ha : s.admits
  · exact ⟨_, admission_busy ha, admission_busy (s := s.withLink e b p) ha⟩
  · refine ⟨_, admission_admitted ha, (admission_admitted (s := s.withLink e b p) ha).trans ?_⟩
    rw [← startTxn_withLink, operandLoad_acquire, operandLoad_withLink, operandLoad_acquire]
    rfl

/-- A request stops in the same way under every link configuration or leads to the same state; DEINIT fixes the bus enable. -/
theorem exec_withLink (i : Instr) :
    (∃ f, exec i s = .fault f ∧ exec i (s.withLink e b p) = .fault f) ∨
      ∃ t e', exec i s = .next t ∧ exec i (s.withLink e b p) = .next (t.withLink e' b p) := by
  by_cases hi : i.isTransaction = true
  · rw [exec_transaction hi, exec_transaction hi]
    obtain ⟨t, ht, ht'⟩ := admission_withLink e b p s i
    exact .inr ⟨t, e, ht, ht'⟩
  · cases i with
    | init c =>
      by_cases ha : initAllowed s = true
      · exact .inr ⟨_, e, if_pos ha, if_pos ha⟩
      · exact .inl ⟨_, if_neg ha, if_neg ha⟩
    | deinit =>
      by_cases hq : s.seq.quiet = true
      · exact .inr ⟨_, false, if_pos hq, if_pos hq⟩
      · exact .inl ⟨_, if_neg hq, if_neg hq⟩
    | dispatch =>
      by_cases ha : dispatchAllowed s = true
      · refine .inr ⟨_, e, if_pos ha, (if_pos ha).trans ?_⟩
        rw [← startTxn_withLink]
        rfl
      · exact .inl ⟨_, if_neg ha, if_neg ha⟩
    | getstate => exact .inr ⟨_, e, rfl, rfl⟩
    | geterror => exact .inr ⟨_, e, rfl, rfl⟩
    | _ => exact absurd rfl hi

/-! ## Micro-steps -/

/-- A micro-step does the same under every link configuration; INIT's last one may write the three registers. -/
theorem advance_withLink : ∃ e' b' p', advance (s.withLink e b p) = (advance s).withLink e' b' p' := by
  apply advance_elim (P := fun s t => ∃ e' b' p', advance (s.withLink e b p) = t.withLink e' b' p') s
  case idle => exact fun hq => ⟨e, b, p, by simp only [advance, State.withLink, hq]⟩
  -- the micro-steps with a decision
  case frameSel => exact fun o hq => ⟨e, b, p, advance_frameSel (s := s.withLink e b p) hq⟩
  case linkRead => exact fun o j hq => ⟨e, b, p, advance_linkRead (s := s.withLink e b p) hq⟩
  case frameDesel => exact fun o hq => ⟨e, b, p, advance_frameDesel (s := s.withLink e b p) hq⟩
  case releaseGet => exact fun hq => ⟨e, b, p, advance_release_get (s := s.withLink e b p) hq⟩
  case testEmits => exact fun _ hq hr => ⟨e, b, p, advance_test_emits (s := s.withLink e b p) hq hr⟩
  case testSilent => exact fun hq hr => ⟨e, b, p, advance_test_silent (s := s.withLink e b p) hq hr⟩
  case initRespond =>
    intro j hq
    refine ⟨if initConfigures s then true else e, if initConfigures s then j.code else b,
      if initConfigures s then j.code else p, (advance_of_op (s := s.withLink e b p) hq).trans ?_⟩
    rw [opStep, initStep, initFinish_eq, initFinish_eq]
    rfl
  -- the waits
  case waitExpired => exact fun k f hq hf hc => ⟨e, b, p, advance_wait_expired (s := s.withLink e b p) hq hf hc⟩
  case waitHolds => exact fun k hq hk hc hp => ⟨e, b, p, advance_wait_holds (s := s.withLink e b p) hq hk hc hp⟩
  case waitWaits => exact fun k hq hk hc hp => ⟨e, b, p, advance_wait_waits (s := s.withLink e b p) hq hk hc hp⟩
  case ackTaken => exact fun hq ha => ⟨e, b, p, advance_ack_taken (s := s.withLink e b p) hq ha⟩
  case ackWaits => exact fun hq ha => ⟨e, b, p, advance_ack_waits (s := s.withLink e b p) hq ha⟩
  -- the others compute
  case releaseClr => exact fun hq => ⟨e, b, p, advance_of_op (s := s.withLink e b p) hq⟩
  case done => exact fun hq => ⟨e, b, p, advance_of_op (s := s.withLink e b p) hq⟩
  case linkWrite => exact fun _ _ hq => ⟨e, b, p, advance_of_op (s := s.withLink e b p) hq⟩
  all_goals exact fun _ hq => ⟨e, b, p, advance_of_op (s := s.withLink e b p) hq⟩

/-! ## Steps -/

theorem tick_withLink : (s.withLink e b p).tick = s.tick.withLink e b p := by
  cases hp : s.port with
  | nil => simp only [State.tick, State.withLink, hp]
  | cons r rest => simp only [State.tick, State.withLink, hp]

/-- A step stops in the same way under every link configuration, or leads to the same state under some other one. -/
theorem step_withLink :
    (∃ f, step s = .fault f ∧ step (s.withLink e b p) = .fault f) ∨
      ∃ t e' b' p', step s = .next t ∧ step (s.withLink e b p) = .next (t.withLink e' b' p') := by
  by_cases hn : ∀ r ∈ s.port.head?, r.delay ≠ 0
  · obtain ⟨e', b', p', ha⟩ := advance_withLink e b p s
    refine .inr ⟨_, e', b', p', step_of_not_due hn, ?_⟩
    rw [step_of_not_due (s := s.withLink e b p) hn, ha, tick_withLink]
  · cases hp : s.port with
    | nil => simp [hp] at hn
    | cons r rest =>
      have hd : r.delay = 0 := by simpa [hp] using hn
      cases hdec : decode s.par.prescalerCodes r.desc r.payload with
      | error x => exact .inr ⟨_, e, b, p, step_of_refused hp hd hdec, step_of_refused (s := s.withLink e b p) hp hd hdec⟩
      | ok i =>
        have hs : step s = exec i (s.serving r rest) := step_of_due hp hd hdec
        have hs' : step (s.withLink e b p) = exec i ((s.serving r rest).withLink e b p) :=
          step_of_due (s := s.withLink e b p) hp hd hdec
        rw [hs, hs']
        exact (exec_withLink e b p (s.serving r rest) i).imp_right fun ⟨t, e', h, h'⟩ => ⟨t, e', b, p, h, h'⟩

/-- Settles O60: a step serves a request or takes a micro-step, and neither reads the link configuration. -/
theorem behaviourDoesNotDependOnTheLinkConfiguration : Obligations.BehaviourDoesNotDependOnTheLinkConfiguration := by
  intro s e b p
  obtain ⟨f, h, h'⟩ | ⟨t, e', b', p', h, h'⟩ := step_withLink e b p s
  · unfold State.withLink at h'
    rw [h, h']
  · unfold State.withLink at h'
    rw [h, h']
    exact ⟨e', b', p', rfl⟩

end Sys2Proof.Machine
end

section
/-! SUPPORT. The bounded wait (spec/40_bus_primitive.md R100, R101, R104): the samples on which it stays, written out as one
state, and then the step that ends it. -/

namespace Sys2Proof.Machine

variable {s : State} {k : WaitPoint}

/-! ## The samples on which a wait stays -/

/-- The record of the next `n` samples, newest first. -/
def State.samples (s : State) (n : Nat) : List Event :=
  ((List.range n).map fun m => Event.sample (s.inputsAt m)).reverse

theorem samples_succ (s : State) (n : Nat) : s.samples (n + 1) = .sample (s.inputsAt n) :: s.samples n := by
  simp [State.samples, List.range_succ]

/-- The state after `n` samples on none of which the wait ended. -/
def State.afterSamples (n : Nat) (s : State) : State :=
  { s with count := s.count - n, env := s.env.drop n, drawn := s.drawn + n, trace := s.samples n ++ s.trace }

theorem inputs_afterSamples (s : State) (n : Nat) : (s.afterSamples n).inputs = s.inputsAt n := by
  simp [State.inputs_eq_inputsAt, State.inputsAt, State.afterSamples]

/-- One more sample on which the wait stays. -/
theorem advance_afterSamples {n : Nat} (hq : s.seq = .wait k) (hk : k ≠ .ack) (hn : n < s.count)
    (hno : k.holds (s.inputsAt n) = false) : advance (s.afterSamples n) = s.afterSamples (n + 1) := by
  have hcount : (s.afterSamples n).count ≠ 0 := Nat.sub_ne_zero_of_lt hn
  rw [advance_wait_waits (s := s.afterSamples n) hq hk hcount (by rwa [inputs_afterSamples]), inputs_afterSamples]
  simp [State.afterSamples, samples_succ, Nat.sub_sub, Nat.add_assoc]

/-- A wait whose predicate holds at none of the next `n` samples, and which has them left, stays for `n` steps. -/
theorem runsTo_afterSamples {n : Nat} (hq : s.seq = .wait k) (hk : k ≠ .ack) (hport : s.port = []) (hn : n ≤ s.count)
    (hno : ∀ m, m < n → k.holds (s.inputsAt m) = false) : RunsTo n s (s.afterSamples n) := by
  induction n with
  | zero => exact runsTo_zero s
  | succ n ih =>
    have hrun : RunsTo n s (s.afterSamples n) := ih (Nat.le_of_succ_le hn) fun m hm => hno m (Nat.lt_succ_of_lt hm)
    have hstep := advance_afterSamples hq hk hn (hno n (Nat.lt_succ_self n))
    exact runsTo_trans hrun (runsTo_advance hport (hstep ▸ runsTo_zero _))

/-! ## The end of the wait -/

/-- Settles O20: the wait stays for the first j samples, and `advance_wait_holds` is the step on the one that holds. -/
theorem waitEndsAtTheFirstSampleThatHolds : Obligations.WaitEndsAtTheFirstSampleThatHolds := by
  intro s k j hq hk hport hj hno hyes
  have hrun := runsTo_afterSamples hq hk hport (Nat.le_of_lt hj) hno
  have hlast := advance_wait_holds (s := s.afterSamples j) hq hk (Nat.sub_ne_zero_of_lt hj) (by rwa [inputs_afterSamples])
  refine ⟨_, runsTo_trans hrun (runsTo_advance hport (runsTo_zero _)), ?_⟩
  rw [hlast, inputs_afterSamples]
  exact ⟨nofun, rfl, rfl, rfl, congrArg (· ++ s.trace) (samples_succ s j).symm⟩

/-- Settles O21: the wait stays for the samples it has left, and `advance_wait_expired` is the step after them. -/
theorem waitTimesOutAfterExactlyItsBudget : Obligations.WaitTimesOutAfterExactlyItsBudget := by
  intro s k f hq hf hport hno
  have hrun {n : Nat} (hn : n ≤ s.count) : RunsTo n s (s.afterSamples n) :=
    runsTo_afterSamples hq (WaitPoint.ne_ack hf) hport hn fun m hm => hno m (Nat.lt_of_lt_of_le hm hn)
  have hlast := advance_wait_expired (s := s.afterSamples s.count) hq hf (Nat.sub_self s.count)
  refine ⟨fun n hn => ⟨_, hrun hn, hq, rfl, rfl, rfl, rfl⟩, _,
    runsTo_trans (hrun le_rfl) (runsTo_advance hport (runsTo_zero _)), ?_⟩
  rw [hlast]
  refine ⟨nofun, rfl, ?_, rfl⟩
  cases f <;> rfl

end Sys2Proof.Machine
end

section
/-! SUPPORT. The micro-steps of the bus primitive (spec/40_bus_primitive.md R102, R103, R107): the wake toggle and the exchange. -/

namespace Sys2Proof.Machine

variable {s : State} {o : Owner}

/-! ## The wake toggle -/

theorem advance_wakeSel (hq : s.seq = .op (.txn o .wakeSel)) :
    advance s = { s with sel := true, trace := .sel true :: s.trace, seq := .op (.txn o .wakeHold) } :=
  advance_of_op hq

theorem advance_wakeHold (hq : s.seq = .op (.txn o .wakeHold)) :
    advance s = { s with trace := .hold s.par.wakeHold :: s.trace, seq := .op (.txn o .wakeDesel) } :=
  advance_of_op hq

theorem advance_wakeDesel (hq : s.seq = .op (.txn o .wakeDesel)) :
    advance s =
      { s with
        sel := false, trace := .sel false :: s.trace, seq := .wait (.txn o .startGate), count := s.par.busyBudget } :=
  advance_of_op hq

/-- Settles O23: the three micro-steps of the toggle, one after the other. -/
theorem wakeToggleIsSelectHoldDeselect : Obligations.WakeToggleIsSelectHoldDeselect := by
  intro s o hq hport
  refine runsTo_advance hport ?_
  rw [advance_wakeSel hq]
  refine runsTo_advance hport ?_
  rw [advance_wakeHold rfl]
  refine runsTo_advance hport ?_
  rw [advance_wakeDesel rfl]
  exact runsTo_zero _

/-! ## The exchange -/

/-- Settles O22: the two link accesses as `advance_linkWrite` and `advance_linkRead` give them, with the R positions and the next
place written out. -/
theorem exchangeWritesThenReads : Obligations.ExchangeWritesThenReads := by
  refine fun s o j => ⟨advance_linkWrite, fun hq => ?_⟩
  rw [advance_linkRead hq, State.inputs_eq_inputsAt]
  simp [keepsByte, positionSeq]

end Sys2Proof.Machine
end

section
/-! SUPPORT. A transaction in a ready environment (spec/40_bus_primitive.md R100, spec/41_transactions.md R122, R123, R138), read
backwards from its response: each place adds its own samples to those that follow it. -/

namespace Sys2Proof.Machine

variable {s t : State} {i : Instr} {o : Owner} {back : Resume} {who k d : Nat}

/-! ## A ready environment -/

/-- Every flag a transaction waits for is ready. -/
def FlagsReady (v : Inputs) : Prop := v.txe = true ∧ v.rxne = true ∧ (v.busy && v.busyms) = false

theorem FlagsReady.holds {v : Inputs} (h : FlagsReady v) (w : TxnWait) : (WaitPoint.txn o w).holds v = true := by
  obtain ⟨htxe, hrxne, hgate⟩ := h
  cases w <;> simp [WaitPoint.holds, htxe, hrxne, hgate]

/-- No request comes, no fault was recorded, no budget is 0, and the next `d` reads find the environment ready. -/
structure State.Unhindered (d : Nat) (s : State) : Prop where
  port : s.port = []
  callFailed : s.callFailed = false
  busBudget : s.par.busBudget ≠ 0
  busyBudget : s.par.busyBudget ≠ 0
  ready : ∀ m, m < d → FlagsReady (s.inputsAt m)

/-- The part of the state that `State.Unhindered` speaks of. -/
def State.outlook (s : State) := (s.port, s.callFailed, s.par, s.env, s.drawn)

theorem State.Unhindered.congr (h : s.Unhindered d) (ht : t.outlook = s.outlook) : t.Unhindered d := by
  simp only [State.outlook, Prod.mk.injEq] at ht
  obtain ⟨hport, hfail, hpar, henv, hdrawn⟩ := ht
  refine ⟨hport ▸ h.port, hfail ▸ h.callFailed, hpar ▸ h.busBudget, hpar ▸ h.busyBudget, fun m hm => ?_⟩
  rw [State.inputsAt_congr henv hdrawn]
  exact h.ready m hm

theorem State.Unhindered.afterRead (h : s.Unhindered (d + 1)) : s.afterRead.Unhindered d := by
  refine ⟨h.port, h.callFailed, h.busBudget, h.busyBudget, fun m hm => ?_⟩
  rw [State.inputsAt_of_read (s := s) rfl rfl]
  exact h.ready (m + 1) (Nat.succ_lt_succ hm)

theorem State.Unhindered.inputs (h : s.Unhindered (d + 1)) : FlagsReady s.inputs :=
  s.inputs_eq_inputsAt ▸ h.ready 0 d.succ_pos

/-! ## Answered Ok after a number of samples -/

/-- With no request to come the controller answers `Ok` to the requester `who`, `k` samples from here. -/
def State.AnswersOk (who k : Nat) (s : State) : Prop :=
  ∃ n u new data, RunsTo n s u ∧ u.trace = new ++ s.trace ∧
    new.head? = some (.respond who (.result .ok data)) ∧ new.countP Event.isSample = k

/-- The event a step records counts if it is a sample. -/
theorem State.AnswersOk.of_advance {e : Event} (hport : s.port = []) (hadv : advance s = t) (htrace : t.trace = e :: s.trace)
    (h : t.AnswersOk who k) : s.AnswersOk who (k + [e].countP Event.isSample) := by
  subst hadv
  obtain ⟨n, u, new, data, hrun, hu, hhead, hcount⟩ := h
  refine ⟨n + 1, u, new ++ [e], data, runsTo_advance hport hrun, ?_, ?_, ?_⟩
  · rw [hu, htrace, List.append_assoc]; rfl
  · rw [List.head?_append, hhead]; rfl
  · rw [List.countP_append, hcount]

/-- A step that takes no sample; `r` is the state whose reads are those still to come. -/
theorem State.AnswersOk.of_silent {r : State} {e : Event} (hport : s.port = []) (h : r.Unhindered d) (hadv : advance s = t)
    (htrace : t.trace = e :: s.trace) (he : e.isSample = false) (hout : t.outlook = r.outlook)
    (hnext : t.Unhindered d → t.AnswersOk who k) : s.AnswersOk who k := by
  have hs := of_advance hport hadv htrace (hnext (h.congr hout))
  simpa [he] using hs

/-- The state after a sample on which the wait `w` ends. -/
def State.sampled (w : WaitPoint) (s : State) : State :=
  { s with
    count := s.count - 1, env := s.env.tail, drawn := s.drawn + 1, trace := .sample s.inputs :: s.trace
    seq := .op (w.after (initConfigures s)) }

/-- A wait of a transaction ends on its first sample. -/
theorem State.AnswersOk.of_wait {w : TxnWait} (h : s.Unhindered (d + 1)) (hq : s.seq = .wait (.txn o w)) (hc : s.count ≠ 0)
    (hnext : (s.sampled (.txn o w)).Unhindered d → (s.sampled (.txn o w)).AnswersOk who k) : s.AnswersOk who (k + 1) :=
  of_advance h.port (advance_wait_holds hq nofun hc (h.inputs.holds w)) rfl (hnext (h.afterRead.congr rfl))

/-! ## From each place of a transaction to its response -/

/-- The gates still to run after the frame (R122). -/
def State.finalGates (s : State) : Nat := if skipsFinalGate s.par s.op s.cmd then 0 else 1

theorem answersOk_release (h : s.Unhindered d) (hq : s.seq = .op (.txn (.requester back) .release)) :
    s.AnswersOk s.client 0 := by
  have hrun : RunsTo 1 s (advance s) := runsTo_advance h.port (runsTo_zero _)
  refine ⟨1, _, [.respond s.client (.result .ok (responseData s))], _, hrun, ?_, rfl, rfl⟩
  rw [advance_release_requester hq, h.callFailed]
  rfl

theorem answersOk_frameDesel (h : s.Unhindered s.finalGates) (hq : s.seq = .op (.txn (.requester back) .frameDesel)) :
    s.AnswersOk s.client s.finalGates := by
  have hadv := advance_frameDesel hq
  cases hs : skipsFinalGate s.par s.op s.cmd <;> rw [hs] at hadv
  · have hg : s.finalGates = 0 + 1 := by simp [State.finalGates, hs]
    rw [hg] at h ⊢
    refine .of_silent h.port h hadv rfl rfl rfl fun h => ?_
    exact .of_wait h rfl h.busyBudget fun h => answersOk_release h rfl
  · have hg : s.finalGates = 0 := by simp [State.finalGates, hs]
    rw [hg]
    exact .of_silent h.port h hadv rfl rfl rfl fun h => answersOk_release h rfl

/-- The two waits of an exchange take a sample each, and its LinkRead is the third read. -/
theorem answersOk_positions (r : Nat) {s : State} {j : Nat} (hlen : frameLength s = j + r)
    (hq : s.seq = positionSeq (.requester back) j s) (hc : r ≠ 0 → s.count = s.par.busBudget)
    (h : s.Unhindered (s.finalGates + 3 * r)) : s.AnswersOk s.client (s.finalGates + 2 * r) := by
  induction r generalizing s j with
  | zero =>
    have hend : s.seq = .op (.txn (.requester back) .frameDesel) := hq.trans (by simp [positionSeq, hlen])
    exact answersOk_frameDesel h hend
  | succ r ih =>
    have hwait : s.seq = .wait (.txn (.requester back) (.txe j)) := hq.trans (by simp [positionSeq, hlen])
    have hcount : s.count ≠ 0 := hc r.succ_ne_zero ▸ h.busBudget
    refine .of_wait h hwait hcount fun h => ?_
    refine .of_silent h.port h (advance_linkWrite rfl) rfl rfl rfl fun h => ?_
    refine .of_wait h rfl h.busBudget fun h => ?_
    refine .of_silent h.port h.afterRead (advance_linkRead rfl) rfl rfl rfl fun h => ?_
    have hlast (hr : r ≠ 0) : j + 1 < frameLength s := by omega
    exact ih (j := j + 1) (hlen.trans (by omega)) rfl (fun hr => if_pos (hlast hr)) h

theorem answersOk_frameSel (hq : s.seq = .op (.txn (.requester back) .frameSel))
    (h : s.Unhindered (s.finalGates + 3 * frameLength s)) : s.AnswersOk s.client (s.finalGates + 2 * frameLength s) := by
  refine .of_silent h.port h (advance_frameSel hq) rfl rfl rfl fun h => ?_
  exact answersOk_positions (j := 0) (frameLength s) (Nat.zero_add _).symm rfl (fun hr => if_pos (Nat.pos_of_ne_zero hr)) h

theorem answersOk_startGate (hq : s.seq = .wait (.txn (.requester back) .startGate)) (hc : s.count ≠ 0)
    (h : s.Unhindered (s.finalGates + 3 * frameLength s + 1)) :
    s.AnswersOk s.client (s.finalGates + 2 * frameLength s + 1) :=
  .of_wait h hq hc fun h => answersOk_frameSel rfl h

/-- The wake toggle takes no sample (R107). -/
theorem answersOk_startTxn (back : Resume) (h : s.Unhindered (s.finalGates + 3 * frameLength s + 1)) :
    (s.startTxn (.requester back)).AnswersOk s.client (s.finalGates + 2 * frameLength s + 1) := by
  obtain ⟨-, e⟩ | ⟨-, e⟩ := startTxn_cases (.requester back) s <;> rw [e]
  · refine .of_silent h.port h (advance_wakeSel rfl) rfl rfl rfl fun h => ?_
    refine .of_silent h.port h (advance_wakeHold rfl) rfl rfl rfl fun h => ?_
    refine .of_silent h.port h (advance_wakeDesel rfl) rfl rfl rfl fun h => ?_
    exact answersOk_startGate rfl h.busyBudget h
  · exact answersOk_startGate (s := s.goWait _) rfl h.busyBudget (h.congr rfl)

/-! ## Admission -/

/-- The lock taken and the operands loaded: the admission of `i`, up to the start of the transaction (R121). -/
def State.loaded (i : Instr) (s : State) : State := { (operandLoad i s).acquire with client := s.asking }

theorem exec_of_ready (hi : i.isTransaction = true) (hready : s.state = .ready) (hlock : s.lockHeld = false) :
    exec i s = .next ((s.loaded i).startTxn (.requester s.seq.resume)) := by
  rw [exec_transaction hi, admission_admitted (State.admits_iff.2 ⟨hready, hlock⟩), operandLoad_acquire]
  rfl

theorem trace_startTxn_loaded (i : Instr) (s : State) (o : Owner) : ((s.loaded i).startTxn o).trace = s.trace := by
  rw [startTxn_eq]
  exact (congrArg State.trace (operandLoad_eq i s) :)

theorem outlook_loaded (i : Instr) (s : State) : (s.loaded i).outlook = ({ s with callFailed := false } : State).outlook :=
  (congrArg (fun u : State => (u.port, false, u.par, u.env, u.drawn)) (operandLoad_eq i s) :)

theorem frameLength_loaded (hi : i.isTransaction = true) (hwf : i.wellFormed s.par.prescalerCodes = true) :
    frameLength (s.loaded i) = (i.frame s.par).length := by
  have hlen := length_slots (length_txBuf_operandLoad hi hwf s)
  rw [slots_operandLoad hi] at hlen
  exact hlen.symm

/-- The gates of a request are the one before its frame and those after it (R138). -/
theorem gates_eq_finalGates (hi : i.isTransaction = true) (s : State) : i.gates s.par = (s.loaded i).finalGates + 1 := by
  have hskip : skipsFinalGate (s.loaded i).par (s.loaded i).op (s.loaded i).cmd = i.entersSleep s.par := by
    cases i <;> first | rfl | cases hi
  rw [Instr.gates, State.finalGates, hskip]
  split <;> rfl

/-- Settles O31: the admission reads nothing and loads the frame and the gates of the request; from the start of the transaction
on each gate takes one sample and each position two. -/
theorem readyEnvironmentAnswersOk : Obligations.ReadyEnvironmentAnswersOk := by
  intro i s hi hwf hready hlock _ hport hbus hbusy hin
  rw [gates_eq_finalGates hi, ← frameLength_loaded hi hwf, Nat.add_right_comm] at hin ⊢
  have h : State.Unhindered _ { s with callFailed := false } := ⟨hport, rfl, hbus.ne', hbusy.ne', hin⟩
  obtain ⟨n, u, new, data, hrun, htrace, hhead, hcount⟩ := answersOk_startTxn s.seq.resume (h.congr (outlook_loaded i s))
  rw [trace_startTxn_loaded] at htrace
  exact ⟨_, n, u, new, data, exec_of_ready hi hready hlock, hrun, htrace, hhead, hcount⟩

end Sys2Proof.Machine
end

section
/-! SUPPORT. The transactions, micro-step by micro-step (spec/41_transactions.md R121 to R139): admission, the requests that arrive
meanwhile, the two steps around the frame, and the release. -/

namespace Sys2Proof.Machine

variable {s t : State} {i : Instr}

/-! ## Admission -/

/-- Settles O14: `exec_of_ready` is the admission, whose operand load computes. -/
theorem registerRequestsAreAdmitted : Obligations.RegisterRequestsAreAdmitted := by
  intro s a n p b taken hready hlock
  refine ⟨?_, ?_, ?_, ?_⟩ <;> rw [exec_of_ready rfl hready hlock, startTxn_eq] <;> rfl

/-- Settles O15: the same for the loads of the command and buffer requests. -/
theorem commandAndBufferRequestsAreAdmitted : Obligations.CommandAndBufferRequestsAreAdmitted := by
  intro s n p b taken hready hlock
  refine ⟨?_, ?_, ?_, ?_⟩ <;> rw [exec_of_ready rfl hready hlock, startTxn_eq] <;> rfl

/-! ## Requests that arrive meanwhile (R139) -/

theorem State.BusyMatches.state_of_inTxn (hs : s.BusyMatches) (hin : s.seq.inTxn = true) : s.state = .busy :=
  hs.1.2 (Seq.inOperation_of_inTxn hin)

theorem exec_transaction_of_busy (hi : i.isTransaction = true) (hbusy : s.state = .busy) :
    exec i s = .next (s.respond s.asking (.result .busy [])) := by
  rw [exec_transaction hi, admission_busy (State.admits_false_iff.2 (.inl (by simp [hbusy])))]

/-- An operation with a host duty has no move inside a transaction (70_reset_and_hazards.md R240). -/
theorem exec_ne_next_of_inTxn (hi : (∃ c, i = .init c) ∨ i = .deinit ∨ i = .dispatch) (hbusy : s.state = .busy)
    (hin : s.seq.inTxn = true) (t : State) : exec i s ≠ .next t := by
  have hquiet : s.seq.quiet ≠ true := fun hq => Bool.false_ne_true ((Seq.inTxn_of_quiet hq).symm.trans hin)
  have hnotReady : ¬ dispatchAllowed s = true := fun h => nomatch hbusy.symm.trans (dispatchAllowed_iff.1 h).1
  obtain ⟨c, rfl⟩ | rfl | rfl := hi
  · have hinit : ¬ initAllowed s = true := fun h => hquiet (Seq.quiet_iff.2 (initAllowed_iff.1 h).1)
    simp [exec, execInit, hinit]
  · simp [exec, execDeinit, hquiet]
  · simp [exec, execDispatch, hnotReady]

/-- Settles O17: the due request runs in a state that is Busy and not quiet. -/
theorem requestsDuringATransaction : Obligations.RequestsDuringATransaction := by
  intro s r rest i ⟨_, _, hmatches, _⟩ hin hport hdelay hdec answered
  have hbusy : s.state = .busy := hmatches.state_of_inTxn hin
  rw [step_of_due hport hdelay hdec]
  refine ⟨fun hi => exec_transaction_of_busy hi hbusy, ?_, ?_, fun hi => exec_ne_next_of_inTxn hi hbusy hin⟩
  · rintro rfl
    rw [exec, execGetstate, State.serving_state, hbusy]
    rfl
  · rintro rfl
    rfl

/-! ## Around the frame -/

/-- Settles O24: `advance_frameSel`, with SETCMD's two opcodes in the spec's words. -/
theorem setcmdUpdatesDeepSleepBeforeItsFrame : Obligations.SetcmdUpdatesDeepSleepBeforeItsFrame := by
  intro s o hq
  rw [advance_frameSel hq]
  exact ⟨rfl, rfl, fun ho => by simp [ho, sleepsAfter], fun ho => if_neg ho⟩

theorem skipsFinalGate_iff {p : Params} {o : OpSel} {c : Byte} :
    skipsFinalGate p o c = true ↔ o = .setcmd ∧ c = p.opcSetSleep := by
  simp [skipsFinalGate]

/-- Settles O25: `advance_frameDesel`, with the test on the gate in the spec's words. -/
theorem finalGateIsSkippedForSleepOnly : Obligations.FinalGateIsSkippedForSleepOnly := by
  intro s o hq
  rw [advance_frameDesel hq]
  refine ⟨rfl, rfl, fun h => if_pos (skipsFinalGate_iff.2 h), fun h => ?_⟩
  have hskip := mt skipsFinalGate_iff.1 h
  exact ⟨if_neg hskip, if_neg hskip⟩

/-! ## Release -/

theorem receives_iff {o : OpSel} : receives o = true ↔ o = .rdregs ∨ o = .getcmd ∨ o = .rdbuf ∨ o = .rdreg := by
  cases o <;> decide

/-- Settles O26: `advance_release_requester`, with the classification, the reading operations and H.op written out. -/
theorem releaseClassifiesAndResponds : Obligations.ReleaseClassifiesAndResponds := by
  intro s back hq
  rw [advance_release_requester hq, Resume.op_eq]
  simp only [classify, responseData, receives_iff]

/-! ## What the steps of a transaction leave unchanged -/

/-- A micro-step of a transaction writes no register but those named here, unless it is a release of DISPATCH's own. -/
theorem advance_eq_update_of_inTxn (hin : s.seq.inTxn = true) (hget : s.seq ≠ .op (.txn .dispatchGet .release))
    (hclr : s.seq ≠ .op (.txn .dispatchClr .release)) :
    advance s = { s with
      state := (advance s).state, errorCode := (advance s).errorCode, lockHeld := (advance s).lockHeld
      deepSleep := (advance s).deepSleep, sel := (advance s).sel, txdr := (advance s).txdr, seq := (advance s).seq
      op := (advance s).op, rxBuf := (advance s).rxBuf, callFailed := (advance s).callFailed, count := (advance s).count
      env := (advance s).env, drawn := (advance s).drawn, trace := (advance s).trace } := by
  revert hin hget hclr
  apply advance_elim (P := fun s t => s.seq.inTxn = true → s.seq ≠ .op (.txn .dispatchGet .release) →
    s.seq ≠ .op (.txn .dispatchClr .release) → t = { s with
      state := t.state, errorCode := t.errorCode, lockHeld := t.lockHeld, deepSleep := t.deepSleep, sel := t.sel
      txdr := t.txdr, seq := t.seq, op := t.op, rxBuf := t.rxBuf, callFailed := t.callFailed, count := t.count
      env := t.env, drawn := t.drawn, trace := t.trace }) s
  -- the micro-steps that are left out, or are those of another operation
  case releaseGet => exact fun hq _ hget _ => absurd hq hget
  case releaseClr => exact fun hq _ _ hclr => absurd hq hclr
  case initSetRst | deinitSetRst | initRespond => intro _ hq hin; rw [hq] at hin; cases hin
  case testSilent | ackTaken | done => intro hq; intros; simp_all
  case testEmits => intro _ hq _ hin; rw [hq] at hin; cases hin
  all_goals intros; rfl

/-- A micro-step of a transaction keeps H.op and goes on in a transaction, or is a release; a requester's response leads back to
where the dispatcher stood (10_state.md R33). -/
theorem advance_op_of_inTxn (hin : s.seq.inTxn = true) (hget : s.seq ≠ .op (.txn .dispatchGet .release))
    (hclr : s.seq ≠ .op (.txn .dispatchClr .release)) :
    ((advance s).op = s.op ∧ (advance s).seq.inTxn = true) ∨
      ∃ back : Resume, (advance s).op = back.op s.op ∧ (advance s).seq = back.seq := by
  revert hin hget hclr
  apply advance_elim (P := fun s t => s.seq.inTxn = true → s.seq ≠ .op (.txn .dispatchGet .release) →
    s.seq ≠ .op (.txn .dispatchClr .release) →
    (t.op = s.op ∧ t.seq.inTxn = true) ∨ ∃ back : Resume, t.op = back.op s.op ∧ t.seq = back.seq) s
  case releaseRequester => exact fun back _ _ _ _ => .inr ⟨back, rfl, rfl⟩
  case waitExpired => exact fun k f hq hf _ hin _ _ => .inl ⟨rfl, by rwa [inTxn_after _ (WaitPoint.ne_ack hf), ← hq]⟩
  case waitHolds => exact fun k hq hk _ _ hin _ _ => .inl ⟨rfl, by rwa [inTxn_after _ hk, ← hq]⟩
  all_goals intros; simp_all [apply_ite Seq.inTxn]

/-- Settles O32: with no request on the port the step is a micro-step, `advance_eq_update_of_inTxn` names the registers it may
write, and H.op and H.deepSleep have their own writers. -/
theorem transactionStepsKeepTheRest : Obligations.TransactionStepsKeepTheRest := by
  intro s t ⟨o, j, hj⟩ hget hclr hport h
  rw [step_of_empty_port hport] at h
  cases h
  have hin := Seq.inTxn_of_txnAt hj
  have e := advance_eq_update_of_inTxn hin hget hclr
  have hop : (advance s).op =
      if (advance s).seq.inOperation = true ∨ (advance s).seq = .idle then s.op else .dispatch := by
    obtain ⟨ho, hq⟩ | ⟨back, ho, hq⟩ := advance_op_of_inTxn hin hget hclr
    · rw [ho, if_pos (.inl (Seq.inOperation_of_inTxn hq))]
    · rw [ho, hq]
      cases back <;> rfl
  have hsleep (hne : s.op ≠ .setcmd) : (advance s).deepSleep = s.deepSleep := by
    obtain hd | ⟨_, -, ho⟩ | ⟨j, hq, -⟩ := advance_deepSleep s
    · exact hd
    · exact absurd ho hne
    · rw [hq] at hin
      cases hin
  exact ⟨(congrArg State.baudPrescaler e :), (congrArg State.presc e :), (congrArg State.busEnabled e :),
    (congrArg State.rst e :), (congrArg State.evt e :), (congrArg State.evtValid e :), (congrArg State.dActive e :),
    (congrArg State.dStat e :), (congrArg State.dWord e :), (congrArg State.dCursor e :), (congrArg State.refused e :),
    (congrArg State.par e :), (congrArg State.port e :), (congrArg State.client e :), (congrArg State.dClient e :),
    (congrArg State.asking e :), (congrArg State.cmd e :), (congrArg State.addr e :), (congrArg State.off e :),
    (congrArg State.cnt e :), (congrArg State.txBuf e :), hop, hsleep⟩

/-! ## The single-byte wrappers (R91, R136, R137) -/

/-- The N-byte form of an operation: the two wrappers have one, any other is its own. -/
def longOp : OpSel → OpSel
  | .wrreg => .wrregs
  | .rdreg => .rdregs
  | x => x

/-- The same state with H.op in its N-byte form. -/
def State.longForm (s : State) : State := { s with op := longOp s.op }

theorem Resume.op_cases (r : Resume) (x : OpSel) : r.op x = x ∨ r.op x = .dispatch := by
  cases r
  · exact .inl rfl
  all_goals exact .inr rfl

/-- DISPATCH is its own N-byte form. -/
theorem longOp_eq_ite {a x : OpSel} (h : x = a ∨ x = .dispatch) : longOp x = if x = a then longOp a else x := by
  obtain rfl | rfl := h
  · rw [if_pos rfl]
  · split
    · subst_vars; rfl
    · rfl

theorem longOp_eq_setcmd_iff {x : OpSel} : longOp x = .setcmd ↔ x = .setcmd := by cases x <;> decide
theorem receives_longOp (x : OpSel) : receives (longOp x) = receives x := by cases x <;> rfl
theorem Resume.op_longOp (r : Resume) (x : OpSel) : r.op (longOp x) = longOp (r.op x) := by cases r <;> rfl

theorem resumeAt_longForm (r : Resume) (s : State) : s.longForm.resumeAt r = (s.resumeAt r).longForm :=
  congrArg (fun x => ({ s with seq := r.seq, op := x } : State)) (Resume.op_longOp r s.op)

theorem initFinish_longForm (j : InitJob) (s : State) : initFinish j s.longForm = (initFinish j s).longForm := by
  rw [initFinish_eq, initFinish_eq]
  rfl

theorem skipsFinalGate_longOp (p : Params) (x : OpSel) (c : Byte) : skipsFinalGate p (longOp x) c = skipsFinalGate p x c := by
  cases x <;> rfl

theorem frameHeader_longForm (s : State) : frameHeader s.longForm = frameHeader s := by
  unfold frameHeader State.longForm
  cases s.op <;> rfl

theorem frameLength_longForm (s : State) : frameLength s.longForm = frameLength s :=
  congrArg (fun h => h.length + s.cnt.toNat) (frameHeader_longForm s)

theorem positionSeq_longForm (o : Owner) (j : Nat) (s : State) : positionSeq o j s.longForm = positionSeq o j s := by
  rw [positionSeq, frameLength_longForm, positionSeq]

theorem keepsByte_longForm (s : State) (j : Nat) : keepsByte s.longForm j = keepsByte s j := by
  unfold keepsByte
  rw [frameHeader_longForm]
  exact congrArg (· && _) (receives_longOp s.op)

theorem sentByte_longForm (s : State) (j : Nat) : sentByte s.longForm j = sentByte s j := by
  unfold sentByte
  rw [frameHeader_longForm, show receives s.longForm.op = receives s.op from receives_longOp s.op]
  rfl

theorem responseData_longForm (s : State) : responseData s.longForm = responseData s :=
  congrArg (fun r : Bool => if r then s.rxBuf else []) (receives_longOp s.op)

/-- A micro-step does the same whether H.op holds a wrapper or its N-byte form. -/
theorem advance_longForm (s : State) : advance s.longForm = (advance s).longForm := by
  apply advance_elim (P := fun s t => advance s.longForm = t.longForm) s
  case idle => exact fun hq => by simp only [advance, State.longForm, hq]
  -- the micro-steps of a transaction that read H.op
  case frameSel =>
    intro o hq
    rw [advance_frameSel (s := s.longForm) hq, positionSeq_longForm, frameLength_longForm]
    simp only [State.longForm, longOp_eq_setcmd_iff]
  case linkWrite =>
    intro o j hq
    rw [advance_linkWrite (s := s.longForm) hq, sentByte_longForm]
    rfl
  case linkRead =>
    intro o j hq
    rw [advance_linkRead (s := s.longForm) hq, positionSeq_longForm, frameLength_longForm, keepsByte_longForm]
    rfl
  case frameDesel =>
    intro o hq
    rw [advance_frameDesel (s := s.longForm) hq]
    simp only [State.longForm, skipsFinalGate_longOp]
  case releaseRequester =>
    intro back hq
    rw [advance_release_requester (s := s.longForm) hq, responseData_longForm]
    exact resumeAt_longForm back (s.unlock.respond s.client (.result (classify s.callFailed) (responseData s)))
  -- those that write it
  case releaseGet => exact fun hq => advance_release_get (s := s.longForm) hq
  case releaseClr => exact fun hq => advance_of_op (s := s.longForm) hq
  case deinitRespond =>
    intro b hq
    rw [advance_of_op (s := s.longForm) hq]
    exact resumeAt_longForm b ((deinitFinish s).respond s.client (.result (classify s.callFailed) []))
  case initRespond =>
    intro j hq
    rw [advance_of_op (s := s.longForm) hq, opStep, initStep, initFinish_longForm]
    refine (resumeAt_longForm j.back ((initFinish j s).respond s.client (.result (classify s.callFailed) []))).trans ?_
    rw [initFinish_eq]
    rfl
  -- the dispatcher's tests and the waits, whose decisions are the same
  case testEmits => exact fun _ hq hr => advance_test_emits (s := s.longForm) hq hr
  case testSilent => exact fun hq hr => advance_test_silent (s := s.longForm) hq hr
  case ackTaken => exact fun hq ha => advance_ack_taken (s := s.longForm) hq ha
  case ackWaits => exact fun hq ha => advance_ack_waits (s := s.longForm) hq ha
  case waitExpired => exact fun k f hq hf hc => advance_wait_expired (s := s.longForm) hq hf hc
  case waitHolds => exact fun k hq hk hc hp => advance_wait_holds (s := s.longForm) hq hk hc hp
  case waitWaits => exact fun k hq hk hc hp => advance_wait_waits (s := s.longForm) hq hk hc hp
  -- the others compute
  case done => exact fun hq => advance_of_op (s := s.longForm) hq
  all_goals exact fun _ hq => advance_of_op (s := s.longForm) hq

/-- Settles O33: the two admissions load the same registers but H.op, and `advance_longForm` compares the micro-steps; a
requester's transaction keeps H.op, or gives it back to DISPATCH. -/
theorem wrappersBehaveAsTheirLongForms : Obligations.WrappersBehaveAsTheirLongForms := by
  refine ⟨fun a b s t hready hlock h => ?_, fun a s t hready hlock h => ?_, fun s back ⟨j, hj⟩ => ?_⟩
  · rw [exec_of_ready rfl hready hlock, startTxn_eq] at h ⊢
    cases h
    rfl
  · rw [exec_of_ready rfl hready hlock, startTxn_eq] at h ⊢
    cases h
    rfl
  · have hop : (advance s).op = s.op ∨ (advance s).op = .dispatch := by
      obtain ⟨ho, -⟩ | ⟨r, ho, -⟩ := advance_op_of_inTxn (Seq.inTxn_of_txnAt hj)
        (by rintro hq; rw [hq] at hj; cases hj) (by rintro hq; rw [hq] at hj; cases hj)
      · exact .inl ho
      · rw [ho]
        exact Resume.op_cases r s.op
    have hlong : advance { s with op := longOp s.op } =
        { advance s with op := if (advance s).op = s.op then longOp s.op else (advance s).op } :=
      (advance_longForm s).trans (congrArg (fun x => { advance s with op := x }) (longOp_eq_ite hop))
    exact ⟨fun hs => by rw [hs] at hlong; exact hlong, fun hs => by rw [hs] at hlong; exact hlong⟩

end Sys2Proof.Machine
end

section
/-! SUPPORT. A whole transaction as the list of its primitives (spec/41_transactions.md R122): what a run that does a list of
primitives shows and costs, whatever the environment draws, and that every transaction does its envelope. -/

namespace Sys2Proof.Machine

variable {s t u : State} {o : Owner} {j n m : Nat}

/-! ## The received bytes -/

/-- The bytes kept of those read at the given positions: the ones of the R positions (30_encoding.md R78). -/
def receivedOf (slots : List Slot) (bytes : List Byte) : List Byte :=
  (slots.zip bytes).filterMap fun x => if x.1.isReceive then some x.2 else none

theorem receivedOf_append {xs ys : List Slot} {as bs : List Byte} (h : as.length = xs.length) :
    receivedOf (xs ++ ys) (as ++ bs) = receivedOf xs as ++ receivedOf ys bs := by
  rw [receivedOf, List.zip_append h.symm, List.filterMap_append]
  rfl

theorem wireOf_append (es es' : List Event) : wireOf (es' ++ es) = wireOf es ++ wireOf es' := by
  simp [wireOf]

theorem bytesReadOf_append (es es' : List Event) : bytesReadOf (es' ++ es) = bytesReadOf es ++ bytesReadOf es' := by
  simp [bytesReadOf]

/-! ## Primitives, and what they show and cost -/

/-- A primitive of a transaction: one that is recorded as it is, a bounded wait with its budget, or the LinkRead of a position. -/
inductive Act where
  | mark (e : Event)
  | wait (budget : Nat)
  | read (x : Slot)

/-- The wire events it shows. -/
def Act.wire : Act → List Event
  | .mark e => wireOf [e]
  | .wait _ => []
  | .read _ => []

/-- The position at which it reads a byte. -/
def Act.slots : Act → List Slot
  | .mark _ => []
  | .wait _ => []
  | .read x => [x]

/-- The most samples it takes. -/
def Act.samples : Act → Nat
  | .mark e => [e].countP Event.isSample
  | .wait b => b
  | .read _ => 0

/-- The number of its Holds. -/
def Act.holds : Act → Nat
  | .mark e => [e].countP Event.isHold
  | .wait _ => 0
  | .read _ => 0

/-- The most steps it takes: a wait takes one more than its samples, for its RecordFault. -/
def Act.steps : Act → Nat
  | .mark _ => 1
  | .wait b => b + 1
  | .read _ => 1

/-- The record `new` of `n` steps is one that the primitives of `plan` leave. -/
structure Tally (plan : List Act) (n : Nat) (new : List Event) : Prop where
  wire : wireOf new = plan.flatMap Act.wire
  reads : (bytesReadOf new).length = (plan.flatMap Act.slots).length
  samples : new.countP Event.isSample ≤ (plan.map Act.samples).sum
  holds : new.countP Event.isHold ≤ (plan.map Act.holds).sum
  steps : n ≤ (plan.map Act.steps).sum

theorem Tally.append {p q : List Act} {es es' : List Event} (h : Tally p n es) (h' : Tally q m es') :
    Tally (p ++ q) (n + m) (es' ++ es) where
  wire := by rw [wireOf_append, h.wire, h'.wire, List.flatMap_append]
  reads := by simp [bytesReadOf_append, h.reads, h'.reads]
  samples := by
    rw [List.countP_append, List.map_append, List.sum_append, Nat.add_comm]
    exact Nat.add_le_add h.samples h'.samples
  holds := by
    rw [List.countP_append, List.map_append, List.sum_append, Nat.add_comm]
    exact Nat.add_le_add h.holds h'.holds
  steps := by
    rw [List.map_append, List.sum_append]
    exact Nat.add_le_add h.steps h'.steps

/-! ## Runs that do a list of primitives -/

/-- From `s` to `t` the last fault recorded, if any, is one of the two kinds, and the call has failed if there was one (R101). -/
def FaultsSince (s t : State) : Prop :=
  (t.callFailed = s.callFailed ∧ t.errorCode = s.errorCode) ∨ (t.callFailed = true ∧ (t.errorCode = 1 ∨ t.errorCode = 2))

theorem FaultsSince.trans (h : FaultsSince s t) (h' : FaultsSince t u) : FaultsSince s u := by
  obtain ⟨hf, he⟩ | h' := h'
  · rw [FaultsSince, hf, he]
    exact h
  · exact .inr h'

/-- With no other request the controller does the primitives of `plan`, from `s` to `t`. -/
def Does (plan : List Act) (s t : State) : Prop :=
  ∃ n new, RunsTo n s t ∧ t.trace = new ++ s.trace ∧ Tally plan n new ∧
    responseData t = responseData s ++ receivedOf (plan.flatMap Act.slots) (bytesReadOf new) ∧ FaultsSince s t

theorem Does.refl (s : State) : Does [] s s :=
  ⟨0, [], runsTo_zero s, rfl, ⟨rfl, rfl, le_rfl, le_rfl, le_rfl⟩, (List.append_nil _).symm, .inl ⟨rfl, rfl⟩⟩

theorem Does.trans {p q : List Act} (h : Does p s t) (h' : Does q t u) : Does (p ++ q) s u := by
  obtain ⟨n, es, hrun, htrace, htally, hdata, hfault⟩ := h
  obtain ⟨m, es', hrun', htrace', htally', hdata', hfault'⟩ := h'
  refine ⟨n + m, es' ++ es, runsTo_trans hrun hrun', ?_, htally.append htally', ?_, hfault.trans hfault'⟩
  · rw [htrace', htrace, List.append_assoc]
  · rw [hdata', hdata, bytesReadOf_append, List.flatMap_append, receivedOf_append htally.reads, List.append_assoc]

/-- The same run seen as other primitives, which show the same and may cost more. -/
theorem Does.relax {p q : List Act} (h : Does p s t) (hwire : p.flatMap Act.wire = q.flatMap Act.wire)
    (hslots : p.flatMap Act.slots = q.flatMap Act.slots) (hsamples : (p.map Act.samples).sum ≤ (q.map Act.samples).sum)
    (hholds : (p.map Act.holds).sum ≤ (q.map Act.holds).sum) (hsteps : (p.map Act.steps).sum ≤ (q.map Act.steps).sum) :
    Does q s t := by
  obtain ⟨n, new, hrun, htrace, h, hdata, hfault⟩ := h
  rw [hslots] at hdata
  exact ⟨n, new, hrun, htrace, ⟨h.wire.trans hwire, hslots ▸ h.reads, h.samples.trans hsamples, h.holds.trans hholds,
    h.steps.trans hsteps⟩, hdata, hfault⟩

/-! ## Single primitives -/

/-- `s`, gone on to the place `q`, with the registers that the waits and exchanges of a transaction write as `v` has them. -/
def State.moved (q : Seq) (s v : State) : State :=
  { s with
    seq := q, txdr := v.txdr, rxBuf := v.rxBuf, errorCode := v.errorCode, callFailed := v.callFailed, count := v.count
    env := v.env, drawn := v.drawn, trace := v.trace }

/-- What a call has received and recorded so far. -/
def State.callResult (s : State) := (responseData s, s.callFailed, s.errorCode)

/-- A micro-step that records the event `e` and neither receives a byte nor records a fault. -/
theorem does_mark {e : Event} (hport : s.port = []) (hadv : advance s = t) (htrace : t.trace = e :: s.trace)
    (hread : e.byteRead = none) (hkeep : t.callResult = s.callResult) : Does [.mark e] s t := by
  simp only [State.callResult, Prod.mk.injEq] at hkeep
  obtain ⟨hdata, hfail, hcode⟩ := hkeep
  have htally : Tally [.mark e] 1 [e] :=
    ⟨(List.append_nil _).symm, by simp [bytesReadOf, hread, Act.slots], le_rfl, le_rfl, le_rfl⟩
  exact ⟨1, [e], runsTo_advance hport (hadv ▸ runsTo_zero _), htrace, htally,
    hdata.trans (List.append_nil _).symm, .inl ⟨hfail, hcode⟩⟩

theorem responseData_readPosition (s : State) (j : Nat) (b : Byte) :
    responseData { s with rxBuf := if keepsByte s j then s.rxBuf ++ [b] else s.rxBuf } =
      responseData s ++ if keepsByte s j then [b] else [] := by
  unfold responseData keepsByte
  cases receives s.op <;> simp
  split <;> simp

/-! ## The bounded wait -/

theorem FaultKind.code_eq_one_or_two (k : FaultKind) : k.code = 1 ∨ k.code = 2 := by
  cases k
  · exact .inl rfl
  · exact .inr rfl

/-- Every wait of a transaction ends within the samples it has left, or records a fault after them (R100, R104). -/
theorem does_wait {w : TxnWait} {b : Nat} (hport : s.port = []) (hq : s.seq = .wait (.txn o w)) (hc : s.count = b) :
    ∃ v, Does [.wait b] s (s.moved (.op ((WaitPoint.txn o w).after true)) v) := by
  have hafter (c : Bool) : (WaitPoint.txn o w).after c = (WaitPoint.txn o w).after true := by cases w <;> rfl
  induction b generalizing s with
  | zero =>
    obtain ⟨f, hf⟩ := WaitPoint.faultKind_ne_none (k := .txn o w) nofun
    have hadv := advance_wait_expired hq hf hc
    refine ⟨advance s, 1, [], runsTo_advance hport ?_, ?_, ⟨rfl, rfl, le_rfl, le_rfl, le_rfl⟩, ?_, ?_⟩ <;>
      rw [hadv, hafter]
    · exact runsTo_zero _
    · rfl
    · exact (List.append_nil _).symm
    · exact .inr ⟨rfl, f.code_eq_one_or_two⟩
  | succ b ih =>
    have hne : s.count ≠ 0 := hc ▸ b.succ_ne_zero
    cases hp : (WaitPoint.txn o w).holds s.inputs
    · have hadv := advance_wait_waits hq nofun hne hp
      obtain ⟨v, hv⟩ := ih (s := advance s) (by rw [hadv]; exact hport) (by rw [hadv]; exact hq)
        (by rw [hadv]; exact congrArg (· - 1) hc)
      rw [hadv] at hv
      refine ⟨v, ((does_mark hport hadv rfl rfl rfl).trans hv).relax rfl rfl ?_ ?_ ?_⟩
      · simp [Act.samples, Event.isSample, Nat.add_comm]
      · simp [Act.holds, Event.isHold]
      · simp [Act.steps, Nat.add_comm]
    · have hadv := advance_wait_holds hq nofun hne hp
      rw [hafter] at hadv
      refine ⟨advance s, ?_⟩
      rw [hadv]
      refine (does_mark hport hadv rfl rfl rfl).relax rfl rfl ?_ ?_ ?_
      · simp [Act.samples, Event.isSample]
      · simp [Act.holds, Event.isHold]
      · simp [Act.steps]

/-! ## The frame (30_encoding.md R78) -/

/-- The exchange of a position (40_bus_primitive.md R102, R103). -/
def exchange (bus : Nat) (x : Slot) : List Act := [.wait bus, .mark (.linkWrite x.sent), .wait bus, .read x]

theorem does_linkWrite {x : Slot} (hport : s.port = []) (hq : s.seq = .op (.txn o (.linkWrite j)))
    (hx : s.slots[j]? = some x) :
    ∃ v, Does [.mark (.linkWrite x.sent)] s (s.moved (.wait (.txn o (.rxne j))) v) ∧ v.count = s.par.busBudget := by
  have hadv := advance_linkWrite hq
  refine ⟨advance s, ?_, by rw [hadv]⟩
  rw [← (position_of_slots hx).1, hadv]
  exact does_mark hport hadv rfl rfl rfl

/-- The LinkRead of position j reads a byte at the position that the frame has there, and keeps it if it is an R position. -/
theorem does_linkRead {x : Slot} (hport : s.port = []) (hq : s.seq = .op (.txn o (.linkRead j)))
    (hx : s.slots[j]? = some x) :
    ∃ v, Does [.read x] s (s.moved (positionSeq o (j + 1) s) v) ∧ (j + 1 < frameLength s → v.count = s.par.busBudget) := by
  have hadv := advance_linkRead hq
  refine ⟨advance s, ⟨1, [.linkRead s.inputs.rxdr], runsTo_advance hport ?_, ?_, ⟨rfl, rfl, le_rfl, le_rfl, le_rfl⟩, ?_, ?_⟩,
    fun hlt => ?_⟩ <;> rw [hadv]
  · exact runsTo_zero _
  · rfl
  · refine (responseData_readPosition s j s.inputs.rxdr).trans ?_
    rw [(position_of_slots hx).2]
    cases hr : x.isReceive <;> simp [receivedOf, bytesReadOf, Event.byteRead, Act.slots, hr]
  · exact .inl ⟨rfl, rfl⟩
  · exact if_pos hlt

/-- The exchange of position j, from its first wait to the next position. -/
theorem does_exchange {x : Slot} (hport : s.port = []) (hq : s.seq = .wait (.txn o (.txe j)))
    (hc : s.count = s.par.busBudget) (hx : s.slots[j]? = some x) :
    ∃ v, Does (exchange s.par.busBudget x) s (s.moved (positionSeq o (j + 1) s) v) ∧
      (j + 1 < frameLength s → v.count = s.par.busBudget) := by
  obtain ⟨v₁, htxe⟩ := does_wait hport hq hc
  obtain ⟨v₂, hwrite, hc₂⟩ := does_linkWrite (s := s.moved (.op (.txn o (.linkWrite j))) v₁) hport rfl hx
  obtain ⟨v₃, hrxne⟩ := does_wait (s := s.moved (.wait (.txn o (.rxne j))) v₂) hport rfl hc₂
  obtain ⟨v₄, hread, hc₄⟩ := does_linkRead (s := s.moved (.op (.txn o (.linkRead j))) v₃) hport rfl hx
  exact ⟨v₄, htxe.trans (hwrite.trans (hrxne.trans hread)), hc₄⟩

/-- The exchanges of the positions from j on, up to the deselection. -/
theorem does_positions (rest : List Slot) (hport : s.port = []) (hlen : s.slots.length = frameLength s)
    (hq : s.seq = positionSeq o j s) (hc : j < frameLength s → s.count = s.par.busBudget) (hrest : s.slots.drop j = rest) :
    ∃ v, Does (rest.flatMap (exchange s.par.busBudget)) s (s.moved (.op (.txn o .frameDesel)) v) := by
  induction rest generalizing s j with
  | nil =>
    have hend : ¬ j < frameLength s := by
      rw [← hlen, Nat.not_lt]
      exact List.drop_eq_nil_iff.1 hrest
    rw [positionSeq, if_neg hend] at hq
    refine ⟨s, ?_⟩
    rw [← hq]
    exact Does.refl s
  | cons x rest ih =>
    have hj : j < frameLength s := by
      rw [← hlen, ← Nat.not_le, ← List.drop_eq_nil_iff, hrest]
      exact List.cons_ne_nil x rest
    have hx : s.slots[j]? = some x := by rw [← List.head?_drop, hrest]; rfl
    have hnext : s.slots.drop (j + 1) = rest := by rw [← List.tail_drop, hrest]; rfl
    rw [positionSeq, if_pos hj] at hq
    obtain ⟨v, hexchange, hcount⟩ := does_exchange hport hq (hc hj) hx
    obtain ⟨v', hlater⟩ := ih (s := s.moved (positionSeq o (j + 1) s) v) hport hlen rfl hcount hnext
    exact ⟨v', hexchange.trans hlater⟩

/-! ## The envelope (41_transactions.md R122) -/

/-- The wake toggle (40_bus_primitive.md R107). -/
def wakeToggle (p : Params) : List Act := [.mark (.sel true), .mark (.hold p.wakeHold), .mark (.sel false)]

/-- The primitives of a transaction up to its release: DeviceReady, the frame, and the gates after it. -/
def envelope (p : Params) (asleep : Bool) (slots : List Slot) (finalGates : Nat) : List Act :=
  (if asleep then wakeToggle p else []) ++ .wait p.busyBudget :: .mark (.sel true) ::
    (slots.flatMap (exchange p.busBudget) ++ .mark (.sel false) :: List.replicate finalGates (.wait p.busyBudget))

/-- H.deepSleep after the frame of the operation in H.op (R130). -/
def State.sleepAfterFrame (s : State) : Bool := if s.op = .setcmd then sleepsAfter s.par s.cmd else s.deepSleep

theorem does_wakeToggle (hport : s.port = []) (hq : s.seq = .op (.txn o .wakeSel)) :
    Does (wakeToggle s.par) s
      { s with
        sel := false, seq := .wait (.txn o .startGate), count := s.par.busyBudget
        trace := .sel false :: .hold s.par.wakeHold :: .sel true :: s.trace } := by
  have hsel := does_mark hport (advance_wakeSel hq) rfl rfl rfl
  have hhold := does_mark (s := { s with sel := true, trace := .sel true :: s.trace, seq := .op (.txn o .wakeHold) }) hport
    (advance_wakeHold rfl) rfl rfl rfl
  exact hsel.trans (hhold.trans (does_mark (by exact hport) (advance_wakeDesel rfl) rfl rfl rfl))

/-- After the toggle, or at once, the transaction stands at its first gate. -/
theorem does_startTxn (o : Owner) (hport : s.port = []) :
    ∃ b tr, Does (if s.deepSleep then wakeToggle s.par else []) (s.startTxn o)
      { s with sel := b, seq := .wait (.txn o .startGate), count := s.par.busyBudget, trace := tr } := by
  obtain ⟨hd, e⟩ | ⟨hd, e⟩ := startTxn_cases o s <;> rw [e]
  · rw [if_pos hd]
    exact ⟨_, _, does_wakeToggle (s := s.goTo (.txn o .wakeSel)) hport rfl⟩
  · rw [if_neg (by simp [hd])]
    exact ⟨_, _, Does.refl _⟩

theorem does_frameSel (hport : s.port = []) (hq : s.seq = .op (.txn o .frameSel)) :
    ∃ v, Does [.mark (.sel true)] s
        { s.moved (positionSeq o 0 s) v with sel := true, deepSleep := s.sleepAfterFrame } ∧
      (0 < frameLength s → v.count = s.par.busBudget) := by
  have hadv := advance_frameSel hq
  refine ⟨advance s, ?_, fun hlt => ?_⟩ <;> rw [hadv]
  · exact does_mark hport hadv rfl rfl rfl
  · exact if_pos hlt

/-- After the frame: the deselection, and the gate if there is one. -/
theorem does_frameDesel (hport : s.port = []) (hq : s.seq = .op (.txn o .frameDesel)) :
    ∃ v, Does (.mark (.sel false) :: List.replicate s.finalGates (.wait s.par.busyBudget)) s
      { s.moved (.op (.txn o .release)) v with sel := false } := by
  have hadv := advance_frameDesel hq
  cases hs : skipsFinalGate s.par s.op s.cmd <;> rw [hs] at hadv
  · obtain ⟨v, hgate⟩ := does_wait (s := advance s) (o := o) (w := .endGate) (b := s.par.busyBudget)
      (by rw [hadv]; exact hport) (by rw [hadv]; rfl) (by rw [hadv]; rfl)
    rw [hadv] at hgate
    have hg : s.finalGates = 1 := by simp [State.finalGates, hs]
    rw [hg]
    exact ⟨v, (does_mark hport hadv rfl rfl rfl).trans hgate⟩
  · have hg : s.finalGates = 0 := by simp [State.finalGates, hs]
    refine ⟨advance s, ?_⟩
    rw [hg, hadv]
    exact does_mark hport hadv rfl rfl rfl

/-- `s`, gone on to the release of its transaction. -/
def State.atRelease (o : Owner) (s v : State) : State :=
  { s.moved (.op (.txn o .release)) v with sel := false, deepSleep := s.sleepAfterFrame }

/-- Whatever the environment draws, a transaction runs from its start to its release. -/
theorem does_transaction (o : Owner) (hport : s.port = []) (hlen : s.slots.length = frameLength s) :
    ∃ v, Does (envelope s.par s.deepSleep s.slots s.finalGates) (s.startTxn o) (s.atRelease o v) := by
  obtain ⟨b, tr, hstart⟩ := does_startTxn o hport
  obtain ⟨v, hgate⟩ := does_wait
    (s := { s with sel := b, seq := .wait (.txn o .startGate), count := s.par.busyBudget, trace := tr }) hport rfl rfl
  obtain ⟨v₁, hsel, hc⟩ := does_frameSel (s := { s.moved (.op (.txn o .frameSel)) v with sel := b }) (o := o) hport rfl
  obtain ⟨v₂, hframe⟩ := does_positions s.slots
    (s := { s.moved (positionSeq o 0 s) v₁ with sel := true, deepSleep := s.sleepAfterFrame }) hport hlen rfl hc rfl
  obtain ⟨v₃, hend⟩ := does_frameDesel
    (s := { s.moved (.op (.txn o .frameDesel)) v₂ with sel := true, deepSleep := s.sleepAfterFrame }) hport rfl
  exact ⟨v₃, hstart.trans (hgate.trans (hsel.trans (hframe.trans hend)))⟩

/-! ## What the envelope shows and costs (R138) -/

section
variable (p : Params) (asleep : Bool) (xs : List Slot) (g bus : Nat)

/-- What the exchanges show, where the waits show nothing. -/
theorem flatMap_exchanges {α : Type} {f : Act → List α} (hwait : ∀ b, f (.wait b) = []) :
    (xs.flatMap (exchange bus)).flatMap f = xs.flatMap fun x => f (.mark (.linkWrite x.sent)) ++ f (.read x) := by
  rw [List.flatMap_assoc]
  simp [exchange, hwait]

theorem flatMap_gates {α : Type} {f : Act → List α} (hwait : ∀ b, f (.wait b) = []) :
    (List.replicate g (Act.wait bus)).flatMap f = [] := by
  simp [List.flatMap_eq_nil_iff, hwait]

theorem wire_envelope : (envelope p asleep xs g).flatMap Act.wire = wakeOnWire asleep ++ frameOnWire xs := by
  have hexchanges : (xs.flatMap (exchange p.busBudget)).flatMap Act.wire = xs.map fun x => .linkWrite x.sent :=
    (flatMap_exchanges xs _ fun _ => rfl).trans List.map_eq_flatMap.symm
  simp only [envelope, List.flatMap_append, List.flatMap_cons, hexchanges,
    flatMap_gates g p.busyBudget (f := Act.wire) fun _ => rfl]
  cases asleep <;> rfl

theorem slots_envelope : (envelope p asleep xs g).flatMap Act.slots = xs := by
  have hexchanges : (xs.flatMap (exchange p.busBudget)).flatMap Act.slots = xs :=
    (flatMap_exchanges xs _ fun _ => rfl).trans (List.flatMap_singleton' xs)
  simp only [envelope, List.flatMap_append, List.flatMap_cons, hexchanges,
    flatMap_gates g p.busyBudget (f := Act.slots) fun _ => rfl]
  cases asleep <;> exact List.append_nil xs

/-- A cost of the exchanges that is the same at every position. -/
theorem sum_exchanges {f : Act → Nat} {c d : Nat} (hmark : ∀ b, f (.mark (.linkWrite b)) = c) (hread : ∀ x, f (.read x) = d) :
    ((xs.flatMap (exchange bus)).map f).sum = xs.length * (2 * f (.wait bus) + c + d) := by
  induction xs with
  | nil => simp
  | cons x xs ih =>
    rw [List.flatMap_cons, List.map_append, List.sum_append, ih]
    simp only [exchange, List.map_cons, List.map_nil, List.sum_cons, List.sum_nil, hmark, hread, List.length_cons]
    ring

theorem samples_envelope :
    ((envelope p asleep xs g).map Act.samples).sum = (g + 1) * p.busyBudget + xs.length * 2 * p.busBudget := by
  have hexchanges := sum_exchanges xs p.busBudget (f := Act.samples) (c := 0) (d := 0) (fun _ => rfl) fun _ => rfl
  cases asleep <;> simp [envelope, hexchanges, Act.samples, wakeToggle, Event.isSample] <;> ring

theorem holds_envelope : ((envelope p asleep xs g).map Act.holds).sum ≤ 1 := by
  have hexchanges := sum_exchanges xs p.busBudget (f := Act.holds) (c := 0) (d := 0) (fun _ => rfl) fun _ => rfl
  cases asleep <;> simp [envelope, hexchanges, Act.holds, wakeToggle, Event.isHold]

theorem steps_envelope :
    ((envelope p asleep xs g).map Act.steps).sum ≤
      (g + 1) * (p.busyBudget + 1) + xs.length * (2 * (p.busBudget + 1) + 2) + 5 := by
  have hexchanges := sum_exchanges xs p.busBudget (f := Act.steps) (c := 1) (d := 1) (fun _ => rfl) fun _ => rfl
  cases asleep <;> simp [envelope, hexchanges, Act.steps, wakeToggle] <;> ring_nf <;> omega

end

end Sys2Proof.Machine
end

section
/-! SUPPORT. Every transaction a requester presents to a Ready, unlocked controller (spec/41_transactions.md R121 to R123, R138):
admission, the envelope, and the release. -/

namespace Sys2Proof.Machine

variable {s u : State} {i : Instr} {n : Nat} {new : List Event}

/-! ## The lock taken and the operands loaded -/

theorem par_loaded (i : Instr) (s : State) : (s.loaded i).par = s.par :=
  (congrArg (fun x => x.2.2.1) (outlook_loaded i s) :)

theorem port_loaded (i : Instr) (s : State) : (s.loaded i).port = s.port :=
  (congrArg (fun x => x.1) (outlook_loaded i s) :)

theorem deepSleep_loaded (i : Instr) (s : State) : (s.loaded i).deepSleep = s.deepSleep :=
  (congrArg State.deepSleep (operandLoad_eq i s) :)

theorem errorCode_loaded (i : Instr) (s : State) :
    (s.loaded i).errorCode = if s.par.errPolicy = .perOperation then 0 else s.errorCode :=
  (congrArg (fun t : State => if t.par.errPolicy = .perOperation then (0 : BitVec 32) else t.errorCode)
    (operandLoad_eq i s) :)

theorem slots_loaded (hi : i.isTransaction = true) (s : State) : (s.loaded i).slots = i.frame s.par :=
  slots_operandLoad hi s

/-- No byte is received yet. -/
theorem responseData_loaded (hi : i.isTransaction = true) (s : State) : responseData (s.loaded i) = [] := by
  have hrx : (s.loaded i).rxBuf = [] := rxBuf_operandLoad hi s
  rw [responseData, hrx, ite_self]

theorem sleepAfterFrame_loaded (hi : i.isTransaction = true) (s : State) :
    (s.loaded i).sleepAfterFrame = i.deepSleepAfter s.par s.deepSleep := by
  cases i <;> first | rfl | cases hi

/-! ## From admission to response -/

/-- The primitives of the request `i` presented in `s`. -/
def State.plan (i : Instr) (s : State) : List Act := envelope s.par s.deepSleep (i.frame s.par) (s.loaded i).finalGates

/-- The state `u` after the response of `i`, which was presented in `s`; `new` is the record in between. -/
structure Completed (i : Instr) (s u : State) (new : List Event) : Prop where
  trace : u.trace = .respond s.asking (.result (classify u.callFailed) (receivedOf (i.frame s.par) (bytesReadOf new))) ::
    new ++ s.trace
  seq : u.seq = s.seq
  state : u.state = .ready
  lockHeld : u.lockHeld = false
  sel : u.sel = false
  deepSleep : u.deepSleep = i.deepSleepAfter s.par s.deepSleep
  faults : FaultsSince (s.loaded i) u

/-- Whatever the environment draws, a transaction does its envelope and responds, one step after it. -/
theorem transaction_completes (hi : i.isTransaction = true) (hwf : i.wellFormed s.par.prescalerCodes = true)
    (hop : s.seq.inOperation = false) (hport : s.port = []) :
    ∃ n u new, RunsTo (n + 1) ((s.loaded i).startTxn (.requester s.seq.resume)) u ∧ Tally (s.plan i) n new ∧
      Completed i s u new := by
  have hport' : (s.loaded i).port = [] := (port_loaded i s).trans hport
  have hlen : (s.loaded i).slots.length = frameLength (s.loaded i) := by
    rw [slots_loaded hi, frameLength_loaded hi hwf]
  obtain ⟨v, n, new, hrun, htrace, htally, hdata, hfault⟩ := does_transaction (.requester s.seq.resume) hport' hlen
  rw [par_loaded, deepSleep_loaded, slots_loaded hi] at htally hdata
  rw [slots_envelope, startTxn_eq] at hdata
  rw [trace_startTxn_loaded] at htrace
  rw [startTxn_eq] at hfault
  have hrelease := advance_release_requester (s := (s.loaded i).atRelease (.requester s.seq.resume) v) rfl
  rw [hdata.trans (congrArg (· ++ _) (responseData_loaded hi s)), htrace] at hrelease
  refine ⟨n, _, new, runsTo_trans hrun (runsTo_advance hport' (runsTo_zero _)), htally, ?_⟩
  rw [hrelease]
  exact ⟨rfl, Seq.resume_seq hop, rfl, rfl, rfl, sleepAfterFrame_loaded hi s, hfault⟩

/-! ## The record by kinds of events -/

theorem countP_isSel_wireOf (es : List Event) : (wireOf es).countP Event.isSel = es.countP Event.isSel := by
  rw [wireOf, List.countP_reverse, List.countP_filter]
  congr 1
  funext e
  cases e <;> rfl

theorem countP_isLinkAccess (es : List Event) :
    es.countP Event.isLinkAccess = (wireOf es).countP Event.isLinkAccess + (bytesReadOf es).length := by
  induction es with
  | nil => rfl
  | cons e es ih =>
    have he : [e].countP Event.isLinkAccess = (wireOf [e]).countP Event.isLinkAccess + (bytesReadOf [e]).length := by
      cases e <;> rfl
    rw [← List.singleton_append, wireOf_append, bytesReadOf_append]
    simp only [List.countP_append, List.length_append, ih, he]
    omega

theorem countP_isSel_onWire (asleep : Bool) (xs : List Slot) :
    (wakeOnWire asleep ++ frameOnWire xs).countP Event.isSel = if asleep then 4 else 2 := by
  have hbytes : (xs.map fun x => Event.linkWrite x.sent).countP Event.isSel = 0 := by
    simp [List.countP_eq_zero, Event.isSel]
  rw [List.countP_append, frameOnWire, List.cons_append, List.countP_cons, List.countP_append, hbytes]
  cases asleep <;> rfl

theorem countP_isLinkAccess_onWire (asleep : Bool) (xs : List Slot) :
    (wakeOnWire asleep ++ frameOnWire xs).countP Event.isLinkAccess = xs.length := by
  have hbytes : (xs.map fun x => Event.linkWrite x.sent).countP Event.isLinkAccess = xs.length := by
    rw [List.countP_map]
    exact List.countP_eq_length.2 fun _ _ => rfl
  rw [List.countP_append, frameOnWire, List.cons_append, List.countP_cons, List.countP_append, hbytes]
  cases asleep <;> simp [wakeOnWire, Event.isLinkAccess]

/-! ## The statements -/

/-- Settles O29: the envelope shows the wake toggle and the frame and reads a byte at each position, and the release answers with
those kept; a fault recorded since the admission is one of the two kinds, and without one H.errorCode is that of the admission. -/
theorem everyTransactionRunsItsFrameAndResponds : Obligations.EveryTransactionRunsItsFrameAndResponds := by
  intro i s hi hwf hready hlock hop hport
  obtain ⟨n, u, new, hrun, htally, hdone⟩ := transaction_completes hi hwf hop hport
  have hfault := hdone.faults
  rw [FaultsSince, errorCode_loaded] at hfault
  refine ⟨_, n + 1, u, _ :: new, exec_of_ready hi hready hlock, hrun, hdone.trace, hdone.seq, hdone.state, hdone.lockHeld,
    hdone.sel, hdone.deepSleep, ?_, ?_, rfl, fun hf => ?_, fun hf => ?_⟩
  · exact htally.wire.trans (wire_envelope _ _ _ _)
  · exact htally.reads.trans (congrArg List.length (slots_envelope _ _ _ _))
  · obtain ⟨h, -⟩ | ⟨-, h⟩ := hfault
    · exact absurd (hf.symm.trans h) Bool.noConfusion
    · exact h
  · obtain ⟨-, h⟩ | ⟨h, -⟩ := hfault
    · exact h
    · exact absurd (hf.symm.trans h) Bool.noConfusion

/-- Settles O30: the bounds of the envelope, and one step more for the release; the link accesses and the selects are counted on
the wire, where the envelope shows exactly the toggle and the frame. -/
theorem everyTransactionIsBounded : Obligations.EveryTransactionIsBounded := by
  intro i s hi hwf hready hlock hop hport t g
  obtain ⟨n, u, new, hrun, htally, hdone⟩ := transaction_completes hi hwf hop hport
  have hwire : wireOf new = wakeOnWire s.deepSleep ++ frameOnWire (i.frame s.par) := htally.wire.trans (wire_envelope _ _ _ _)
  have hreads : (bytesReadOf new).length = t := htally.reads.trans (congrArg List.length (slots_envelope _ _ _ _))
  have hg : g = (s.loaded i).finalGates + 1 := gates_eq_finalGates hi s
  have hsamples := htally.samples
  have hsteps := htally.steps.trans (steps_envelope _ _ _ _)
  rw [State.plan, samples_envelope, ← hg] at hsamples
  rw [← hg] at hsteps
  refine ⟨_, n + 1, u, _ :: new, exec_of_ready hi hready hlock, hrun, hdone.trace, ⟨_, rfl⟩, hsamples, ?_, ?_,
    htally.holds.trans (holds_envelope _ _ _ _), Nat.succ_le_succ hsteps⟩
  · refine (countP_isLinkAccess new).trans ?_
    rw [hwire, countP_isLinkAccess_onWire, hreads, two_mul]
  · refine (countP_isSel_wireOf new).symm.trans ?_
    rw [hwire, countP_isSel_onWire]

end Sys2Proof.Machine
end

section
/-! SUPPORT. The decode of a status word (spec/42_dispatcher.md R165 to R169, spec/30_encoding.md R84, R85): which code each entry of
the dispatch order presents, and that the codes follow the order. -/

namespace Sys2Proof.Machine

variable {b : IrqBits} {w : BitVec 16} {j k : Nat} {c d : BitVec 4}

/-! ## What an entry presents -/

/-- Settles O44: each of the ten entries is looked up, and its mask tests its bit (`irqSet_eq_bit`). -/
theorem reactionsFollowTheOrder : Obligations.ReactionsFollowTheOrder := by
  intro b w
  simp [List.range_succ, reaction, dispatchOrder, irqSet_eq_bit, eventCode, irqBit, apply_ite (some : BitVec 4 → _)]

/-- An entry presents a code exactly if the order has a source there whose bit is set, and the code is that source's. -/
theorem reaction_eq_some_iff :
    reaction b w j = some c ↔ ∃ e, dispatchOrder[j]? = some e ∧ irqSet b w e = true ∧ eventCode b w e = c := by
  unfold reaction
  cases dispatchOrder[j]? <;> simp

theorem cadDetected_not_mem_dispatchOrder : IrqSource.cadDetected ∉ dispatchOrder := by decide

/-- Settles O48: an entry that presents something has a source other than CadDetected whose bit is set; the rest are single words
under the default table. -/
theorem statusWordCornerCases : Obligations.StatusWordCornerCases := by
  refine ⟨fun b w hclear j => ?_, by decide, by decide, by decide⟩
  refine Option.eq_none_iff_forall_ne_some.2 fun c hc => ?_
  obtain ⟨e, he, hset, -⟩ := reaction_eq_some_iff.1 hc
  have hne : e ≠ .cadDetected := fun h => cadDetected_not_mem_dispatchOrder (h ▸ List.mem_of_getElem? he)
  rw [irqSet_eq_bit, hclear e hne] at hset
  cases hset

/-! ## The codes follow the order (R168) -/

/-- Entry j presents code j before CadDone, 7 or 8 at it, and j + 1 after it, since CadDetected's code stands between. -/
theorem code_of_reaction (h : reaction b w j = some c) :
    c.toNat = j ∧ j ≤ 7 ∨ c.toNat = j + 1 ∧ 7 ≤ j := by
  obtain ⟨e, he, -, rfl⟩ := reaction_eq_some_iff.1 h
  obtain ⟨hj, rfl⟩ := List.getElem?_eq_some_iff.1 he
  have hj : j < 10 := hj
  by_cases hcadDone : j = 7
  · subst hcadDone
    cases hcad : irqSet b w .cadDetected <;> simp [dispatchOrder, eventCode, hcad]
  · interval_cases j <;> simp [dispatchOrder, eventCode] at hcadDone ⊢

theorem code_lt_of_lt (hc : reaction b w j = some c) (hd : reaction b w k = some d) (hjk : j < k) : c.toNat < d.toNat := by
  have := code_of_reaction hc
  have := code_of_reaction hd
  omega

/-- Settles O45: codes increase along the order (`code_lt_of_lt`); 7 and 8 are both CadDone's, which presents one of them. -/
theorem eachEventAtMostOnceInOrder : Obligations.EachEventAtMostOnceInOrder := by
  refine fun b w => ⟨?_, fun ⟨h7, h8⟩ => ?_⟩
  · exact List.pairwise_filterMap.2 (List.pairwise_lt_range.imp fun hjk _ hc _ hd => code_lt_of_lt hc hd hjk)
  · obtain ⟨j, -, hj⟩ := List.mem_filterMap.1 h7
    obtain ⟨k, -, hk⟩ := List.mem_filterMap.1 h8
    obtain rfl : j = 7 := by have := code_of_reaction hj; simp at this; omega
    obtain rfl : k = 7 := by have := code_of_reaction hk; simp at this; omega
    cases hj.symm.trans hk

end Sys2Proof.Machine
end

section
/-! SUPPORT. The dispatcher's own steps (spec/42_dispatcher.md R161 to R166): its acceptance, the releases of its two transactions,
and its tests. -/

namespace Sys2Proof.Machine

variable {s : State}

/-! ## Acceptance, and the releases of the two transactions -/

theorem exec_dispatch_of_ready (hready : s.state = .ready) (hlock : s.lockHeld = false) (hinactive : s.dActive = false) :
    exec .dispatch s = .next ((loadCommandOperands .getcmd s.par.opcGetIrqStatus 3 []
      ({ s with dActive := true, dClient := s.asking }).acquire).startTxn .dispatchGet) := by
  rw [exec, execDispatch, if_pos (dispatchAllowed_iff.2 ⟨hready, hlock, hinactive⟩)]

/-- Settles O41: the acceptance keeps duty (a), and the load of the GET and the start of a transaction compute. -/
theorem dispatchIsAcceptedWithItsGet : Obligations.DispatchIsAcceptedWithItsGet := by
  intro s hready hlock hinactive
  rw [exec_dispatch_of_ready hready hlock hinactive, startTxn_eq]
  rfl

/-- Settles O42: `advance_release_get` for a GET that has received its three bytes. -/
theorem clearIsAdmittedInTheStepThatReleasesTheGet : Obligations.ClearIsAdmittedInTheStepThatReleasesTheGet := by
  intro s b0 b1 b2 hq hrx
  rw [advance_release_get hq, hrx, statusWord_eq_append]
  rfl

theorem advance_release_clr (hq : s.seq = .op (.txn .dispatchClr .release)) :
    advance s = { s with state := .ready, lockHeld := false, dCursor := 0, op := .dispatch, seq := .op (.disp .test) } :=
  advance_of_op hq

/-- Settles O43: `advance_release_clr`, in which the release and the start of the tests compute to one update. -/
theorem releaseOfTheClearStartsTheTests : Obligations.ReleaseOfTheClearStartsTheTests :=
  fun _ => advance_release_clr

/-! ## The tests -/

theorem advance_done (hq : s.seq = .op (.disp .done)) :
    advance s = { s with dActive := false, seq := .idle, trace := .respond s.dClient .done :: s.trace } :=
  advance_of_op hq

/-- Settles O46: the equations of the dispatcher's micro-steps, where the entry after H.dCursor is tested next unless it was the
last. -/
theorem reactionStepsEmitAndAwait : Obligations.ReactionStepsEmitAndAwait := by
  intro s
  have hnext (h : s.dCursor.toNat < 9) : s.dCursor.toNat + 1 < 10 := Nat.succ_lt_succ h
  have hlast (h : s.dCursor.toNat = 9) : ¬ s.dCursor.toNat + 1 < 10 := by omega
  rw [← State.inputs_eq_inputsAt]
  refine ⟨fun hq e he => advance_test_emits hq he, fun hq he hc => ?_, fun hq he hc => ?_,
    advance_ack_waits, fun hq ha hc => ?_, fun hq ha hc => ?_, advance_done⟩
  · rw [advance_test_silent hq he, if_pos (hnext hc), if_pos (hnext hc), ← hq]
  · rw [advance_test_silent hq he, if_neg (hlast hc), if_neg (hlast hc)]
  · rw [advance_ack_taken hq ha, if_pos (hnext hc), if_pos (hnext hc)]
  · rw [advance_ack_taken hq ha, if_neg (hlast hc), if_neg (hlast hc)]

end Sys2Proof.Machine
end

section
/-! SUPPORT. What DISPATCH's two transactions send, and which event waits (spec/42_dispatcher.md R161 to R167): both rules are kept by
requests and by micro-steps. -/

namespace Sys2Proof.Machine

variable {s t : State} {i : Instr} {o : Owner} {q : Seq}

/-! ## Whose transaction is in progress -/

/-- The owner of the transaction in progress. -/
def Seq.owner : Seq → Option Owner
  | .op (.txn o _) => some o
  | .wait (.txn o _) => some o
  | _ => none

theorem Seq.owner_eq_map_txnAt (q : Seq) (len : Nat) : q.owner = (q.txnAt len).map Prod.fst := by
  cases q with
  | idle => rfl
  | op k => cases k <;> rfl
  | wait k => cases k <;> rfl

theorem Seq.owner_eq_some_iff (len : Nat) : q.owner = some o ↔ ∃ j, q.txnAt len = some (o, j) := by
  simp [Seq.owner_eq_map_txnAt q len]

theorem Seq.owner_of_not_inTxn (h : q.inTxn = false) : q.owner = none := by
  rw [Seq.owner_eq_map_txnAt q 0, Seq.txnAt_of_not_inTxn h]
  rfl

theorem owner_startSeq (o : Owner) (d : Bool) : (startSeq o d).owner = some o := by
  rw [Seq.owner_eq_map_txnAt _ 0, txnAt_startSeq]
  rfl

theorem owner_positionSeq (o : Owner) (n : Nat) (s : State) : (positionSeq o n s).owner = some o := by
  unfold positionSeq; split <;> rfl

theorem owner_after {k : WaitPoint} (c : Bool) (h : k ≠ .ack) : (Seq.op (k.after c)).owner = (Seq.wait k).owner := by
  rw [Seq.owner_eq_map_txnAt _ 0, Seq.owner_eq_map_txnAt _ 0, txnAt_after _ _ h]

/-! ## What the two transactions send (R161, R162, R164) -/

/-- The operands of DISPATCH's GET, or of its CLR, for the transaction of the owner `o`. -/
def State.InnerOperands (s : State) (o : Owner) : Prop :=
  (o = .dispatchGet → s.op = .getcmd ∧ s.cmd = s.par.opcGetIrqStatus ∧ s.cnt = 3) ∧
    (o = .dispatchClr → s.op = .setcmd ∧ s.cmd = s.par.opcClrIrqStatus ∧ s.cnt = 2 ∧
      s.txBuf = [s.dStat.s1, s.dStat.s2] ∧ s.dWord = s.dStat.s1 ++ s.dStat.s2)

theorem innerMatches_iff : s.InnerMatches ↔ ∀ o, s.seq.owner = some o → s.InnerOperands o := by
  simp only [Seq.owner_eq_some_iff (frameLength s), forall_exists_index]
  rfl

/-- A transaction starts with its operands loaded. -/
theorem innerMatches_of_start {d : Bool} (hq : t.seq = startSeq o d) (h : t.InnerOperands o) : t.InnerMatches := by
  rw [innerMatches_iff, hq, owner_startSeq]
  intro o' ho
  cases ho
  exact h

/-- A transaction that a requester presents is not one of the two. -/
theorem innerOperands_requester (s : State) (back : Resume) : s.InnerOperands (.requester back) := ⟨nofun, nofun⟩

theorem innerMatches_of_not_inTxn (hq : t.seq.inTxn = false) : t.InnerMatches := by
  rw [innerMatches_iff, Seq.owner_of_not_inTxn hq]
  nofun

/-- The transaction in progress goes on, or none is in progress; the operands are kept. -/
theorem State.InnerMatches.move (hs : s.InnerMatches) (hq : s.seq = q) (hown : t.seq.owner = q.owner)
    (hkeep : t.InnerOperands = s.InnerOperands) : t.InnerMatches := by
  rw [innerMatches_iff] at hs ⊢
  rw [hown, hkeep, ← hq]
  exact hs

theorem exec_keeps_inner (h : exec i s = .next t) : s.InnerMatches → t.InnerMatches := by
  apply exec_elim h
  case admitted => exact fun _ _ _ _ => innerMatches_of_start rfl (innerOperands_requester _ _)
  case dispatch => exact fun _ _ _ _ _ => innerMatches_of_start rfl ⟨fun _ => ⟨rfl, rfl, rfl⟩, nofun⟩
  case answered => exact fun _ hs => hs
  case init => exact fun _ _ _ _ _ => innerMatches_of_not_inTxn rfl
  case deinit => exact fun _ _ _ => innerMatches_of_not_inTxn rfl

theorem advance_keeps_inner : s.InnerMatches → (advance s).InnerMatches := by
  apply advance_elim (P := fun s t => s.InnerMatches → t.InnerMatches) s
  -- a transaction, from its start to its release
  case wakeSel | wakeHold | wakeDesel => exact fun _ hq hs => hs.move hq rfl rfl
  case frameSel => exact fun o hq hs => hs.move hq (owner_positionSeq o 0 s) rfl
  case linkWrite => exact fun o j hq hs => hs.move hq rfl rfl
  case linkRead => exact fun o j hq hs => hs.move hq (owner_positionSeq o (j + 1) s) rfl
  case frameDesel =>
    intro o hq hs
    cases skipsFinalGate s.par s.op s.cmd <;> exact hs.move hq rfl rfl
  case releaseRequester => exact fun back _ _ => innerMatches_of_not_inTxn (Resume.inTxn_seq back)
  case releaseGet =>
    exact fun _ _ => innerMatches_of_start (o := .dispatchClr) rfl
      ⟨nofun, fun _ => ⟨rfl, rfl, rfl, rfl, statusWord_eq_append _ _⟩⟩
  -- the bounded waits
  case waitExpired => exact fun k f hq hf _ hs => hs.move hq (owner_after _ (WaitPoint.ne_ack hf)) rfl
  case waitHolds => exact fun k hq hk _ _ hs => hs.move hq (owner_after _ hk) rfl
  case waitWaits => exact fun _ _ _ _ _ hs => hs
  -- no transaction is in progress afterwards
  case idle => exact fun _ hs => hs
  case ackWaits => exact fun _ _ hs => hs
  case initRespond => exact fun j _ _ => innerMatches_of_not_inTxn (Resume.inTxn_seq j.back)
  case deinitRespond => exact fun b _ _ => innerMatches_of_not_inTxn (Resume.inTxn_seq b)
  case testSilent | ackTaken => exact fun _ _ _ => innerMatches_of_not_inTxn (by split <;> rfl)
  all_goals intros; exact innerMatches_of_not_inTxn rfl

/-! ## The event that waits (R166, R167) -/

theorem Seq.awaitsAck_iff : q.awaitsAck = true ↔ q.back = some .ack := by
  simp [Seq.awaitsAck]

theorem Seq.eq_ack_of_resume (h : q.resume = .ack) : q = .wait .ack := by
  cases q with
  | idle => cases h
  | op k => cases k with
    | disp p => cases p <;> cases h
    | _ => cases h
  | wait k => cases k <;> first | rfl | cases h

/-- An operation returns to AwaitAck only if it was admitted there (R167). -/
theorem Seq.awaitsAck_of_resume (h : q.resume = .ack) : q.awaitsAck = true := by
  rw [Seq.eq_ack_of_resume h]
  rfl

/-- No event waits that did not wait before; the word, the cursor and EVT are kept. -/
theorem State.EventMatches.move (hs : s.EventMatches) (hwaits : t.seq.awaitsAck = true → s.seq.awaitsAck = true)
    (hkeep : (t.par, t.dWord, t.dCursor, t.evt) = (s.par, s.dWord, s.dCursor, s.evt)) : t.EventMatches := by
  simp only [Prod.mk.injEq] at hkeep
  obtain ⟨hpar, hword, hcursor, hevt⟩ := hkeep
  intro ht
  rw [hpar, hword, hcursor, hevt]
  exact hs (hwaits ht)

theorem State.EventMatches.of_back_eq (hs : s.EventMatches) (hback : t.seq.back = s.seq.back)
    (hkeep : (t.par, t.dWord, t.dCursor, t.evt) = (s.par, s.dWord, s.dCursor, s.evt)) : t.EventMatches :=
  hs.move (by rw [Seq.awaitsAck, hback]; exact id) hkeep

theorem eventMatches_of_no_wait (hq : t.seq.awaitsAck = false) : t.EventMatches :=
  fun h => absurd (hq.symm.trans h) Bool.false_ne_true

theorem exec_keeps_event (h : exec i s = .next t) : s.EventMatches → t.EventMatches := by
  have hresume {q' : Seq} (hback : q'.back = some s.seq.resume) : q'.awaitsAck = true → s.seq.awaitsAck = true :=
    fun hw => Seq.awaitsAck_of_resume (Option.some.inj (hback.symm.trans (Seq.awaitsAck_iff.1 hw)))
  apply exec_elim h
  case admitted => exact fun _ _ _ hs => hs.move (hresume (back_startSeq _ _)) rfl
  case init => exact fun _ _ _ _ hs => hs.move (hresume rfl) rfl
  case deinit => exact fun _ _ hs => hs.move (hresume rfl) rfl
  case answered => exact fun _ hs => hs
  case dispatch => exact fun _ _ _ _ _ => eventMatches_of_no_wait (by rw [Seq.awaitsAck, back_startSeq]; rfl)

theorem advance_keeps_event : s.EventMatches → (advance s).EventMatches := by
  apply advance_elim (P := fun s t => s.EventMatches → t.EventMatches) s
  -- the entry that is tested presents the event
  case testEmits => exact fun e _ he _ _ => he
  -- the wait is over, or none was in progress
  case testSilent | ackTaken => exact fun _ _ _ => eventMatches_of_no_wait (by split <;> rfl)
  case done => exact fun _ _ => eventMatches_of_no_wait rfl
  case releaseGet =>
    exact fun _ _ => eventMatches_of_no_wait ((congrArg (· == some .ack) (back_startSeq .dispatchClr s.deepSleep) :))
  case releaseClr => exact fun _ _ => eventMatches_of_no_wait rfl
  -- the others stay in an operation with the same place to return to, or return there
  case idle => exact fun _ hs => hs
  case waitWaits => exact fun _ _ _ _ _ hs => hs
  case ackWaits => exact fun _ _ hs => hs
  case waitExpired => exact fun k f hq hf _ hs => hs.of_back_eq (by rw [hq]; exact back_after _ (WaitPoint.ne_ack hf)) rfl
  case waitHolds => exact fun k hq hk _ _ hs => hs.of_back_eq (by rw [hq]; exact back_after _ hk) rfl
  case frameSel => exact fun o hq hs => hs.of_back_eq (by rw [hq]; exact back_positionSeq _ _ _) rfl
  case linkRead => exact fun o j hq hs => hs.of_back_eq (by rw [hq]; exact back_positionSeq _ _ _) rfl
  case frameDesel =>
    intro o hq hs
    cases skipsFinalGate s.par s.op s.cmd <;> exact hs.of_back_eq (by rw [hq]; rfl) rfl
  case releaseRequester => exact fun back hq hs => hs.of_back_eq (by rw [hq]; exact Resume.back_seq back) rfl
  case initRespond =>
    intro j hq hs
    rw [initFinish_eq]
    exact hs.of_back_eq (by rw [hq]; exact Resume.back_seq j.back) rfl
  case deinitRespond => exact fun b hq hs => hs.of_back_eq (by rw [hq]; exact Resume.back_seq b) rfl
  case linkWrite => exact fun o j hq hs => hs.of_back_eq (by rw [hq]; rfl) rfl
  case wakeSel | wakeHold | wakeDesel | initSetRst | initSetSel | deinitSetRst | deinitSetSel =>
    exact fun _ hq hs => hs.of_back_eq (by rw [hq]; rfl) rfl

/-- Settles O53: each of the two rules is an invariant by itself. -/
theorem everyStepKeepsTheDispatcherRules : Obligations.EveryStepKeepsTheDispatcherRules :=
  fun _ _ hinner hevent h =>
    ⟨step_invariant (fun _ _ _ _ hs => hs) (fun _ => exec_keeps_inner) advance_keeps_inner h hinner,
      step_invariant (fun _ _ _ _ hs => hs) (fun _ => exec_keeps_event) advance_keeps_event h hevent⟩

end Sys2Proof.Machine
end

section
/-! SUPPORT. A transaction presented while an event waits (spec/42_dispatcher.md R167): from its admission to its response, and back to
AwaitAck. -/

namespace Sys2Proof.Machine

variable {s : State} {i : Instr}

theorem length_slots_loaded (hi : i.isTransaction = true) (hwf : i.wellFormed s.par.prescalerCodes = true) :
    (s.loaded i).slots.length = frameLength (s.loaded i) := by
  rw [slots_loaded hi, frameLength_loaded hi hwf]

/-- The registers a reaction needs: the status word, the cursor, the status bytes, EVT and its valid indication, and whose DISPATCH
is in progress (10_state.md R34). -/
def State.reactionRegisters (s : State) := (s.dWord, s.dCursor, s.dStat, s.evt, s.evtValid, s.dActive, s.dClient)

theorem reactionRegisters_loaded (i : Instr) (s : State) : (s.loaded i).reactionRegisters = s.reactionRegisters :=
  (congrArg State.reactionRegisters (operandLoad_eq i s) :)

/-- Settles O49: a transaction runs to its release (`does_transaction`) and writes none of the registers of the reaction; its
response returns to the place held since its admission, AwaitAck. -/
theorem reactionRequestsReturnToAwaitAck : Obligations.ReactionRequestsReturnToAwaitAck := by
  intro i s hi hwf hready hlock hq hport
  have hport' : (s.loaded i).port = [] := (port_loaded i s).trans hport
  obtain ⟨v, n, new, hrun, -⟩ := does_transaction (.requester .ack) hport' (length_slots_loaded hi hwf)
  have hreturn := runsTo_trans hrun (runsTo_advance hport' (runsTo_zero _))
  rw [advance_release_requester rfl] at hreturn
  have hadmitted := exec_of_ready hi hready hlock
  rw [hq] at hadmitted
  have hstart : ((s.loaded i).startTxn (.requester .ack)).seq ≠ .wait .ack := by
    rw [startTxn_eq]
    exact fun h => Bool.noConfusion ((inTxn_startSeq _ _).symm.trans (congrArg Seq.inTxn h))
  have hkept := reactionRegisters_loaded i s
  simp only [State.reactionRegisters, Prod.mk.injEq] at hkept
  obtain ⟨hword, hcursor, hstat, hevt, hvalid, hactive, hclient⟩ := hkept
  exact ⟨_, _, _, hadmitted, hstart, hreturn, rfl, rfl, hword, hcursor, hstat, hevt, hvalid, hactive, hclient, rfl⟩

end Sys2Proof.Machine
end

section
/-! SUPPORT. Stretches of a run, with the inputs they read, and those of a transaction: it presents no event, and reads one input for
each sample and each LinkRead in its record. -/

namespace Sys2Proof.Machine

variable {s t u : State} {o : Owner} {n k d d' : Nat} {es es' new : List Event}

/-! ## Stretches -/

/-- With no other request the controller gets from `s` to `t`; the record grows by `new`, and at most `d` inputs are read. -/
structure Stretch (s t : State) (new : List Event) (d : Nat) : Prop where
  run : ∃ n, RunsTo n s t
  trace : t.trace = new ++ s.trace
  inputs : ∃ k ≤ d, ∀ m, t.inputsAt m = s.inputsAt (m + k)

theorem Stretch.refl (s : State) : Stretch s s [] 0 := ⟨⟨0, runsTo_zero s⟩, rfl, 0, le_rfl, fun _ => rfl⟩

theorem Stretch.mono (h : Stretch s t new d) (hd : d ≤ d') : Stretch s t new d' :=
  let ⟨k, hk, hin⟩ := h.inputs
  ⟨h.run, h.trace, k, hk.trans hd, hin⟩

theorem Stretch.trans (h : Stretch s t es d) (h' : Stretch t u es' d') : Stretch s u (es' ++ es) (d + d') := by
  obtain ⟨⟨n, hrun⟩, htrace, k, hk, hin⟩ := h
  obtain ⟨⟨n', hrun'⟩, htrace', k', hk', hin'⟩ := h'
  refine ⟨⟨_, runsTo_trans hrun hrun'⟩, ?_, k + k', Nat.add_le_add hk hk', fun m => ?_⟩
  · rw [htrace', htrace, List.append_assoc]
  · rw [hin', hin, Nat.add_assoc, Nat.add_comm k']

/-- A micro-step that reads no input. -/
theorem Stretch.of_silent (hport : s.port = []) (hadv : advance s = t) (htrace : t.trace = new ++ s.trace)
    (henv : t.env = s.env) (hdrawn : t.drawn = s.drawn) : Stretch s t new 0 :=
  ⟨⟨1, runsTo_advance hport (hadv ▸ runsTo_zero _)⟩, htrace, 0, le_rfl, State.inputsAt_congr henv hdrawn⟩

/-- A micro-step that reads one. -/
theorem Stretch.of_read (hport : s.port = []) (hadv : advance s = t) (htrace : t.trace = new ++ s.trace)
    (henv : t.env = s.env.tail) (hdrawn : t.drawn = s.drawn + 1) : Stretch s t new 1 :=
  ⟨⟨1, runsTo_advance hport (hadv ▸ runsTo_zero _)⟩, htrace, 1, le_rfl, State.inputsAt_of_read henv hdrawn⟩

theorem Stretch.inputs_of_forall {P : Inputs → Prop} {b : Nat} (h : Stretch s t new d) (hs : ∀ m, m < b → P (s.inputsAt m)) :
    ∀ m, m + d < b → P (t.inputsAt m) := by
  obtain ⟨k, hk, hin⟩ := h.inputs
  intro m hm
  rw [hin]
  exact hs _ (by omega)

/-! ## Inside a transaction -/

theorem emittedOf_append (es es' : List Event) : emittedOf (es' ++ es) = emittedOf es ++ emittedOf es' := by
  simp [emittedOf]

/-- The inputs that a transaction with this record has read. -/
def readsOf (es : List Event) : Nat := es.countP Event.isSample + (bytesReadOf es).length

theorem readsOf_append (es es' : List Event) : readsOf (es' ++ es) = readsOf es + readsOf es' := by
  simp only [readsOf, bytesReadOf_append, List.countP_append, List.length_append]
  omega

/-- A stretch that presents no event and records each of its reads. -/
def Recorded (s t : State) (new : List Event) : Prop := Stretch s t new (readsOf new) ∧ emittedOf new = []

theorem Recorded.refl (s : State) : Recorded s s [] := ⟨Stretch.refl s, rfl⟩

theorem Recorded.trans (h : Recorded s t es) (h' : Recorded t u es') : Recorded s u (es' ++ es) := by
  obtain ⟨hs, he⟩ := h
  obtain ⟨hs', he'⟩ := h'
  refine ⟨readsOf_append es es' ▸ hs.trans hs', ?_⟩
  rw [emittedOf_append, he, he']
  rfl

/-- A micro-step of a transaction presents no event, and records an input if it reads one. -/
theorem advance_record_of_inTxn (hin : s.seq.inTxn = true) :
    ∃ new, (advance s).trace = new ++ s.trace ∧ emittedOf new = [] ∧
      ∀ m, (advance s).inputsAt m = s.inputsAt (m + readsOf new) := by
  revert hin
  apply advance_elim (P := fun s t => s.seq.inTxn = true → ∃ new, t.trace = new ++ s.trace ∧ emittedOf new = [] ∧
    ∀ m, t.inputsAt m = s.inputsAt (m + readsOf new)) s
  -- an event that is no read
  case wakeSel | wakeHold | wakeDesel | frameSel | frameDesel | releaseRequester =>
    exact fun _ _ _ => ⟨[_], rfl, rfl, State.inputsAt_congr rfl rfl⟩
  case linkWrite => exact fun _ _ _ _ => ⟨[_], rfl, rfl, State.inputsAt_congr rfl rfl⟩
  -- no event
  case releaseGet | releaseClr => exact fun _ _ => ⟨[], rfl, rfl, State.inputsAt_congr rfl rfl⟩
  case waitExpired => exact fun _ _ _ _ _ _ => ⟨[], rfl, rfl, State.inputsAt_congr rfl rfl⟩
  -- a read
  case linkRead => exact fun _ _ _ _ => ⟨[_], rfl, rfl, State.inputsAt_of_read rfl rfl⟩
  case waitHolds | waitWaits => exact fun _ _ _ _ _ _ => ⟨[_], rfl, rfl, State.inputsAt_of_read rfl rfl⟩
  -- the others are outside a transaction
  all_goals intros; simp_all

/-- A micro-step starts no transaction but DISPATCH's CLR, which follows its GET; every other one is admitted by a request. -/
theorem inTxn_of_advance : (advance s).seq.inTxn = true → s.seq.inTxn = true := by
  apply advance_elim (P := fun s t => t.seq.inTxn = true → s.seq.inTxn = true) s
  case waitExpired => exact fun k f hq hf _ ht => by rwa [inTxn_after _ (WaitPoint.ne_ack hf), ← hq] at ht
  case waitHolds => exact fun k hq hk _ _ ht => by rwa [inTxn_after _ hk, ← hq] at ht
  all_goals intros; simp_all [apply_ite Seq.inTxn]

/-- A run that ends inside a transaction, with no other request, is inside one all the way. -/
theorem recorded_of_runsTo (hport : s.port = []) (hrun : RunsTo n s t) (ht : t.seq.inTxn = true) :
    s.seq.inTxn = true ∧ ∃ new, Recorded s t new := by
  induction n generalizing s with
  | zero =>
    cases hrun
    exact ⟨ht, [], Recorded.refl t⟩
  | succ n ih =>
    obtain ⟨s', hstep, hrest⟩ := runsTo_succ_iff.1 hrun
    cases (step_of_empty_port hport).symm.trans hstep
    obtain ⟨hin', later, hlater⟩ := ih ((advance_port s).trans hport) hrest
    have hin := inTxn_of_advance hin'
    obtain ⟨new, htrace, hemit, hreads⟩ := advance_record_of_inTxn hin
    have hfirst : Recorded s (advance s) new :=
      ⟨⟨⟨1, runsTo_advance hport (runsTo_zero _)⟩, htrace, _, le_rfl, hreads⟩, hemit⟩
    exact ⟨hin, _, hfirst.trans hlater⟩

/-- What a transaction shows from its start in `s` to its release, where the registers it writes are those of `v`. -/
structure ReachesRelease (o : Owner) (s v : State) (new : List Event) : Prop where
  stretch : Stretch (s.startTxn o) (s.atRelease o v) new
    (2 * s.par.busyBudget + s.slots.length * (2 * s.par.busBudget + 1))
  emitted : emittedOf new = []
  wire : wireOf new = wakeOnWire s.deepSleep ++ frameOnWire s.slots
  reads : (bytesReadOf new).length = s.slots.length
  data : responseData (s.atRelease o v) = responseData s ++ receivedOf s.slots (bytesReadOf new)

/-- Two gates at most, and two waits and a LinkRead at each position (41_transactions.md R138). -/
theorem readsOf_le_of_tally {p : Params} {asleep : Bool} {xs : List Slot} {g : Nat} (hg : g ≤ 1)
    (h : Tally (envelope p asleep xs g) n new) : readsOf new ≤ 2 * p.busyBudget + xs.length * (2 * p.busBudget + 1) := by
  have hsamples := h.samples
  have hreads := h.reads
  rw [samples_envelope] at hsamples
  rw [slots_envelope] at hreads
  have hgates : (g + 1) * p.busyBudget ≤ 2 * p.busyBudget := Nat.mul_le_mul_right _ (Nat.succ_le_succ hg)
  rw [readsOf, hreads, Nat.mul_add, ← Nat.mul_assoc]
  omega

theorem finalGates_le_one (s : State) : s.finalGates ≤ 1 := by
  unfold State.finalGates
  split <;> decide

theorem reachesRelease (o : Owner) (hport : s.port = []) (hlen : s.slots.length = frameLength s) :
    ∃ v new, ReachesRelease o s v new := by
  obtain ⟨v, n, new, hrun, htrace, htally, hdata, -⟩ := does_transaction o hport hlen
  have hport' : (s.startTxn o).port = [] := by rw [startTxn_eq]; exact hport
  obtain ⟨-, new', hstretch, hemit⟩ := recorded_of_runsTo hport' hrun rfl
  obtain rfl : new = new' := List.append_cancel_right (htrace.symm.trans hstretch.trace)
  rw [slots_envelope] at hdata
  refine ⟨v, new, hstretch.mono (readsOf_le_of_tally (finalGates_le_one s) htally), hemit,
    htally.wire.trans (wire_envelope _ _ _ _), htally.reads.trans (congrArg List.length (slots_envelope _ _ _ _)), ?_⟩
  rw [hdata, startTxn_eq]
  rfl

end Sys2Proof.Machine
end

section
/-! SUPPORT. A whole DISPATCH whose every event is acknowledged at once (spec/42_dispatcher.md R161 to R170): the GET, the CLR with the
bytes it read, and the tests. -/

namespace Sys2Proof.Machine

variable {s : State} {j r : Nat}

/-! ## The GET and the CLR (R161 to R164) -/

/-- The lock taken and the operands of the GET loaded: the acceptance of a DISPATCH, up to the start of its GET. -/
def State.loadedGet (s : State) : State :=
  loadCommandOperands .getcmd s.par.opcGetIrqStatus 3 [] ({ s with dActive := true, dClient := s.asking }).acquire

/-- The three bytes of the GET latched and the operands of the CLR loaded, up to the start of the CLR. -/
def State.loadedClr (b0 b1 b2 : Byte) (s : State) : State :=
  loadCommandOperands .setcmd s.par.opcClrIrqStatus 2 [b1, b2]
    ({ s.unlock with dStat := { s0 := b0, s1 := b1, s2 := b2 }, dWord := b1 ++ b2 }).acquire

/-- The release of the GET is the start of the CLR: no event and no read in between. -/
theorem stretch_release_get {b0 b1 b2 : Byte} (hport : s.port = []) (hq : s.seq = .op (.txn .dispatchGet .release))
    (hrx : s.rxBuf = [b0, b1, b2]) : Stretch s ((s.loadedClr b0 b1 b2).startTxn .dispatchClr) [] 0 := by
  rw [startTxn_eq]
  exact .of_silent hport (clearIsAdmittedInTheStepThatReleasesTheGet s b0 b1 b2 hq hrx) rfl rfl rfl

/-- Of the bytes read in the GET's four positions, all but that of the opcode are kept. -/
theorem receivedOf_get {p : Params} {c : Byte} {bytes : List Byte}
    (hlen : bytes.length = (Instr.frame p (.getcmd c 3)).length) :
    ∃ x b0 b1 b2, bytes = [x, b0, b1, b2] ∧ receivedOf (Instr.frame p (.getcmd c 3)) bytes = [b0, b1, b2] := by
  obtain ⟨x, b0, b1, b2, rfl⟩ := List.length_eq_four.1 hlen
  exact ⟨x, b0, b1, b2, rfl, rfl⟩

/-- The GET, from the acceptance of the DISPATCH to the start of the CLR. -/
theorem get_completes (hport : s.port = []) :
    ∃ v new x b0 b1 b2,
      Stretch (s.loadedGet.startTxn .dispatchGet)
        (((s.loadedGet.atRelease .dispatchGet v).loadedClr b0 b1 b2).startTxn .dispatchClr) new
        (2 * s.par.busyBudget + 4 * (2 * s.par.busBudget + 1)) ∧
      emittedOf new = [] ∧ bytesReadOf new = [x, b0, b1, b2] ∧
      wireOf new = wakeOnWire s.deepSleep ++ frameOnWire (Instr.frame s.par (.getcmd s.par.opcGetIrqStatus 3)) := by
  obtain ⟨v, new, h⟩ := reachesRelease .dispatchGet (s := s.loadedGet) hport rfl
  obtain ⟨x, b0, b1, b2, hbytes, hkept⟩ := receivedOf_get h.reads
  have hrx : (s.loadedGet.atRelease .dispatchGet v).rxBuf = [b0, b1, b2] := h.data.trans hkept
  exact ⟨v, new, x, b0, b1, b2, h.stretch.trans (stretch_release_get hport rfl hrx), h.emitted, hbytes, h.wire⟩

/-- The state in which the tests start, after a CLR that was started in `s`. -/
def State.tests (s v : State) : State :=
  { s.atRelease .dispatchClr v with
    state := .ready, lockHeld := false, dCursor := 0, op := .dispatch, seq := .op (.disp .test) }

/-- The CLR, from its start to that of the tests. -/
theorem clr_completes {b0 b1 b2 : Byte} (hport : s.port = []) :
    ∃ v new x1 x2 x3,
      Stretch ((s.loadedClr b0 b1 b2).startTxn .dispatchClr) ((s.loadedClr b0 b1 b2).tests v) new
        (2 * s.par.busyBudget + 3 * (2 * s.par.busBudget + 1)) ∧
      emittedOf new = [] ∧ bytesReadOf new = [x1, x2, x3] ∧
      wireOf new = wakeOnWire s.deepSleep ++ frameOnWire (Instr.frame s.par (.setcmd s.par.opcClrIrqStatus [b1, b2])) := by
  obtain ⟨v, new, h⟩ := reachesRelease .dispatchClr (s := s.loadedClr b0 b1 b2) hport rfl
  obtain ⟨x1, x2, x3, hbytes⟩ := List.length_eq_three.1 h.reads
  have hstep : Stretch ((s.loadedClr b0 b1 b2).atRelease .dispatchClr v) ((s.loadedClr b0 b1 b2).tests v) [] 0 :=
    .of_silent hport (advance_release_clr rfl) rfl rfl rfl
  exact ⟨v, new, x1, x2, x3, h.stretch.trans hstep, h.emitted, hbytes, h.wire⟩

/-! ## The tests (R165, R166) -/

/-- `new` presents the events `codes` and shows nothing else of the radio. -/
def Presents (codes : List (BitVec 4)) (new : List Event) : Prop :=
  wireOf new = [] ∧ bytesReadOf new = [] ∧ emittedOf new = codes

theorem Presents.append {cs cs' : List (BitVec 4)} {es es' : List Event} (h : Presents cs es) (h' : Presents cs' es') :
    Presents (cs ++ cs') (es' ++ es) := by
  obtain ⟨hwire, hbytes, hemit⟩ := h
  obtain ⟨hwire', hbytes', hemit'⟩ := h'
  rw [Presents, wireOf_append, bytesReadOf_append, emittedOf_append, hwire, hwire', hbytes, hbytes', hemit, hemit']
  exact ⟨rfl, rfl, rfl⟩

/-- Where the dispatcher stands after entry j - 1 of its order. -/
def entrySeq (j : Nat) : Seq := if j < 10 then .op (.disp .test) else .op (.disp .done)

/-- `s`, gone on to the place `q`, with the registers that the dispatcher's tests write as `v` has them. -/
def State.reacted (q : Seq) (s v : State) : State :=
  { s with
    seq := q, dCursor := v.dCursor, evt := v.evt, evtValid := v.evtValid, env := v.env, drawn := v.drawn, trace := v.trace }

/-- The event `e` has been presented and waits for its acknowledgement. -/
def State.presenting (e : BitVec 4) (s : State) : State :=
  { s with evt := e, evtValid := true, seq := .wait .ack, trace := .emit e :: s.trace }

theorem nextCursor_toNat {c : BitVec 4} (h : c.toNat + 1 < 10) :
    (if c.toNat + 1 < 10 then c + 1 else c).toNat = c.toNat + 1 := by
  rw [if_pos h]
  bv_omega

/-- Entry j presents its event, if it has one, and the dispatcher goes on with the next entry once it is acknowledged. -/
theorem entry_completes (hport : s.port = []) (hq : s.seq = .op (.disp .test)) (hj : s.dCursor.toNat = j)
    (hvalid : s.evtValid = false) (hack : (s.inputsAt 0).evtAck = true) :
    ∃ v new, Stretch s (s.reacted (entrySeq (j + 1)) v) new 1 ∧
      Presents (reaction s.par.irq s.dWord j).toList new ∧ v.evtValid = false ∧
      (j + 1 < 10 → v.dCursor.toNat = j + 1) := by
  subst hj
  cases hr : reaction s.par.irq s.dWord s.dCursor.toNat with
  | none =>
    have hadv := advance_test_silent hq hr
    have htest : Stretch s (s.reacted (entrySeq (s.dCursor.toNat + 1)) (advance s)) [] 0 := by
      rw [hadv]
      exact .of_silent hport hadv rfl rfl rfl
    refine ⟨advance s, [], htest.mono (Nat.zero_le 1), ⟨rfl, rfl, rfl⟩, ?_, ?_⟩ <;> rw [hadv]
    · exact hvalid
    · exact nextCursor_toNat
  | some e =>
    have hack' : (s.presenting e).inputs.evtAck = true := by rwa [State.inputs_eq_inputsAt]
    have hadv := advance_ack_taken (s := s.presenting e) rfl hack'
    have hemit : Stretch s (s.presenting e) [.emit e] 0 := .of_silent hport (advance_test_emits hq hr) rfl rfl rfl
    have htaken : Stretch (s.presenting e) (s.reacted (entrySeq (s.dCursor.toNat + 1)) (advance (s.presenting e))) [.ack] 1 := by
      rw [hadv]
      exact .of_read hport hadv rfl rfl rfl
    refine ⟨advance (s.presenting e), [.ack, .emit e], hemit.trans htaken, ⟨rfl, rfl, rfl⟩, ?_, ?_⟩ <;> rw [hadv]
    exact nextCursor_toNat

/-- The entries from j on present their events in order, if each is acknowledged at its first look. -/
theorem entries_complete (hport : s.port = []) (hjr : j + r = 10) (hq : s.seq = entrySeq j)
    (hj : j < 10 → s.dCursor.toNat = j) (hvalid : s.evtValid = false) (hack : ∀ m, m < r → (s.inputsAt m).evtAck = true) :
    ∃ v new, Stretch s (s.reacted (.op (.disp .done)) v) new r ∧
      Presents ((List.range' j r).filterMap (reaction s.par.irq s.dWord)) new ∧ v.evtValid = false := by
  induction r generalizing s j with
  | zero =>
    have hend : s.seq = .op (.disp .done) := hq.trans (if_neg (by omega))
    refine ⟨s, [], ?_, ⟨rfl, rfl, rfl⟩, hvalid⟩
    rw [← hend]
    exact Stretch.refl s
  | succ r ih =>
    have hlt : j < 10 := by omega
    obtain ⟨v, new, hentry, hpresents, hvalid₁, hcursor⟩ :=
      entry_completes hport (hq.trans (if_pos hlt)) (hj hlt) hvalid (hack 0 r.succ_pos)
    have hack₁ (m : Nat) (hm : m < r) := hentry.inputs_of_forall (P := fun v => v.evtAck = true) hack m (Nat.succ_lt_succ hm)
    obtain ⟨v', later, hentries, hpresents', hvalid'⟩ :=
      ih (s := s.reacted (entrySeq (j + 1)) v) (j := j + 1) hport (by omega) rfl hcursor hvalid₁ hack₁
    refine ⟨v', later ++ new, Nat.add_comm 1 r ▸ hentry.trans hentries, ?_, hvalid'⟩
    rw [List.filterMap_eq_flatMap_toList, List.range'_succ, List.flatMap_cons, ← List.filterMap_eq_flatMap_toList]
    exact hpresents.append hpresents'

/-- The tests, from their start to the response of the DISPATCH. -/
theorem tests_complete (hport : s.port = []) (hq : s.seq = .op (.disp .test)) (hcursor : s.dCursor = 0)
    (hvalid : s.evtValid = false) (hack : ∀ m, m < 10 → (s.inputsAt m).evtAck = true) :
    ∃ v new, Stretch s { s.reacted .idle v with dActive := false } (.respond s.dClient .done :: new) 10 ∧
      Presents ((List.range 10).filterMap (reaction s.par.irq s.dWord)) (.respond s.dClient .done :: new) ∧
      v.evtValid = false := by
  obtain ⟨v, new, hentries, hpresents, hvalid'⟩ :=
    entries_complete (j := 0) hport rfl hq (fun _ => by rw [hcursor]; rfl) hvalid hack
  have hdone : Stretch (s.reacted (.op (.disp .done)) v) _ [.respond s.dClient .done] 0 :=
    .of_silent hport (advance_done rfl) rfl rfl rfl
  exact ⟨{ v with trace := .respond s.dClient .done :: v.trace }, new, hentries.trans hdone, hpresents, hvalid'⟩

/-! ## The statement -/

/-- Settles O47: the GET and the CLR read at most 4 * BUSY + 14 * BUS + 7 inputs and present no event; the ten entries read at most
one input each and show nothing on the wire. -/
theorem dispatchClearsWhatItReadAndReactsInOrder : Obligations.DispatchClearsWhatItReadAndReactsInOrder := by
  intro s hready hlock hinactive hvalid _ hport hsleep hack
  obtain ⟨v₁, get, x0, b0, b1, b2, hget, hgetEmit, hgetBytes, hgetWire⟩ := get_completes (s := s) hport
  obtain ⟨v₂, clr, x1, x2, x3, hclr, hclrEmit, hclrBytes, hclrWire⟩ :=
    clr_completes (s := s.loadedGet.atRelease .dispatchGet v₁) (b0 := b0) (b1 := b1) (b2 := b2) hport
  have hstart : ∀ m, m < 4 * s.par.busyBudget + 14 * s.par.busBudget + 17 →
      ((s.loadedGet.startTxn .dispatchGet).inputsAt m).evtAck = true := by
    rw [startTxn_eq]
    exact fun m hm => State.inputsAt_congr (s := s) rfl rfl m ▸ hack m hm
  have hframes : Stretch _ _ (clr ++ get) (2 * s.par.busyBudget + 4 * (2 * s.par.busBudget + 1) +
      (2 * s.par.busyBudget + 3 * (2 * s.par.busBudget + 1))) := hget.trans hclr
  have htests (m : Nat) (hm : m < 10) :=
    hframes.inputs_of_forall (P := fun v => v.evtAck = true) hstart m (by omega)
  obtain ⟨v₃, late, hlate, ⟨hlateWire, hlateBytes, hlateEmit⟩, hvalid'⟩ :=
    tests_complete (s := ((s.loadedGet.atRelease .dispatchGet v₁).loadedClr b0 b1 b2).tests v₂) hport rfl rfl hvalid htests
  obtain ⟨⟨n, hrun⟩, htrace, -⟩ := hframes.trans hlate
  rw [startTxn_eq] at htrace
  have hdeepSleep : sleepsAfter s.par s.par.opcClrIrqStatus = true ↔ s.par.opcClrIrqStatus = s.par.opcSetRxDutyCycle := by
    simp [sleepsAfter, hsleep]
  refine ⟨_, n, _, _, clr ++ get, .respond s.asking .done :: late, b0, b1, b2,
    exec_dispatch_of_ready hready hlock hinactive, hrun, htrace, rfl, ?_, hlateWire, rfl, rfl, rfl, rfl, hvalid', rfl, rfl, ?_,
    ⟨x0, x1, x2, x3, ?_⟩, ?_, rfl, hdeepSleep⟩
  · rw [emittedOf_append, hgetEmit, hclrEmit]
    rfl
  · rw [wireOf_append, wireOf_append, hgetWire, hclrWire]
    exact (congrArg _ hlateWire).trans ((List.append_nil _).trans (List.append_assoc _ _ _).symm)
  · rw [bytesReadOf_append, bytesReadOf_append, hgetBytes, hclrBytes]
    exact congrArg _ hlateBytes
  · rw [emittedOf_append, emittedOf_append, hgetEmit, hclrEmit]
    exact hlateEmit

end Sys2Proof.Machine
end

section
/-! SUPPORT. Acceptance and steps of INIT and DEINIT, and the two queries (spec/43_lifecycle.md R181 to R187): the requests as
whole next states, the only writer of the prescaler's registers, and what the steps after an acceptance leave unchanged. -/

namespace Sys2Proof.Machine

variable {s t : State} {i : Instr} {c : BitVec 3}

/-! ## Queries (R186, R187) -/

theorem exec_getstate_of_state {l : Lifecycle} (h : s.state = l) :
    exec .getstate s = .next { s with trace := .respond s.asking (.value (l.code.setWidth 32)) :: s.trace } := by
  subst h
  rfl

/-- Settles O18: GETSTATE answers the code of H.state, zero-extended, and GETERROR the error code as it stands. -/
theorem queriesAnswerAtOnce : Obligations.QueriesAnswerAtOnce := by
  refine fun s => ⟨?_, rfl⟩
  split <;> exact exec_getstate_of_state ‹_›

/-! ## Acceptance (R181, R184) -/

/-- The acceptance of the lifecycle operation `o`, which goes on with the micro-step `k`. -/
def State.accepted (o : OpSel) (k : Point) (s : State) : State :=
  { s with state := .busy, callFailed := false, op := o, client := s.asking, seq := .op k }

/-- What an INIT presented now holds while it is in progress. -/
def State.jobFor (c : BitVec 3) (s : State) : InitJob := { code := c, prev := s.state, back := s.seq.resume }

theorem exec_init_of_quiet (hq : s.seq.quiet = true)
    (hs : s.state = .uninitializedAfterReset ∨ s.state = .uninitializedAfterRFReady) :
    exec (.init c) s = .next (s.accepted .init (.init (s.jobFor c) (initFirst s.state))) :=
  if_pos (initAllowed_iff.2 ⟨Seq.quiet_iff.1 hq, hs⟩)

theorem exec_deinit_of_quiet (hq : s.seq.quiet = true) :
    exec .deinit s = .next { s.accepted .deinit (.deinit s.seq.resume .setRst) with busEnabled := false } :=
  if_pos hq

/-- Settles O34: a quiet controller accepts both operations, and INIT starts with the reset step exactly after a reset. -/
theorem lifecycleRequestsAreAccepted : Obligations.LifecycleRequestsAreAccepted := by
  intro s c hseq accepted job
  have hq : s.seq.quiet = true := Seq.quiet_iff.2 hseq
  have hfirst {p : InitPoint} (hs : s.state = .uninitializedAfterReset ∨ s.state = .uninitializedAfterRFReady)
      (hp : initFirst s.state = p) : exec (.init c) s = .next (accepted .init (.init job p)) :=
    hp ▸ exec_init_of_quiet hq hs
  exact ⟨fun hs => hfirst (.inl hs) (by rw [hs]; rfl), fun hs => hfirst (.inr hs) (by rw [hs]; rfl), exec_deinit_of_quiet hq⟩

/-! ## The prescaler's two registers (R182) -/

theorem advance_prescaler (s : State) :
    ((advance s).baudPrescaler, (advance s).presc) = (s.baudPrescaler, s.presc) ∨
      ∃ j, s.seq = .op (.init j .respond) ∧ (advance s).baudPrescaler = j.code ∧ (advance s).presc = j.code := by
  apply advance_elim (P := fun s t => (t.baudPrescaler, t.presc) = (s.baudPrescaler, s.presc) ∨
    ∃ j, s.seq = .op (.init j .respond) ∧ t.baudPrescaler = j.code ∧ t.presc = j.code) s
  case initRespond =>
    intro j hq
    rw [initFinish_eq]
    by_cases hc : initConfigures s = true
    · exact .inr ⟨j, hq, if_pos hc, if_pos hc⟩
    · exact .inl (congrArg₂ Prod.mk (if_neg hc) (if_neg hc))
  all_goals intros; exact .inl rfl

/-- Settles O55: no request writes either register, and `advance_prescaler` finds their one writer among the micro-steps. -/
theorem onlyInitWritesThePrescaler : Obligations.OnlyInitWritesThePrescaler := by
  intro s t h hne
  have hpair : (t.baudPrescaler, t.presc) ≠ (s.baudPrescaler, s.presc) := by
    rwa [Ne, Prod.mk.injEq, not_and_or]
  obtain rfl := step_eq_advance_of_ne (f := fun s => (s.baudPrescaler, s.presc)) (fun _ _ _ => rfl) (fun _ => rfl)
    (fun hx => by rw [exec_eq_update hx]) h hpair
  rw [State.tick_baudPrescaler, State.tick_presc] at hpair ⊢
  exact (advance_prescaler s).resolve_left hpair

/-! ## What the steps of INIT and DEINIT leave unchanged -/

/-- A micro-step of an operation that is no transaction writes no register but those named here. -/
theorem advance_eq_update_of_lifecycle (hop : s.seq.inOperation = true) (hin : s.seq.inTxn = false) :
    advance s = { s with
      state := (advance s).state, errorCode := (advance s).errorCode, deepSleep := (advance s).deepSleep
      lockHeld := (advance s).lockHeld, baudPrescaler := (advance s).baudPrescaler, busEnabled := (advance s).busEnabled
      sel := (advance s).sel, rst := (advance s).rst, presc := (advance s).presc, seq := (advance s).seq
      op := (advance s).op, callFailed := (advance s).callFailed, count := (advance s).count, env := (advance s).env
      drawn := (advance s).drawn, trace := (advance s).trace } := by
  revert hop hin
  apply advance_elim (P := fun s t => s.seq.inOperation = true → s.seq.inTxn = false → t = { s with
      state := t.state, errorCode := t.errorCode, deepSleep := t.deepSleep, lockHeld := t.lockHeld
      baudPrescaler := t.baudPrescaler, busEnabled := t.busEnabled, sel := t.sel, rst := t.rst, presc := t.presc
      seq := t.seq, op := t.op, callFailed := t.callFailed, count := t.count, env := t.env, drawn := t.drawn
      trace := t.trace }) s
  case initRespond => intros; rw [initFinish_eq]
  -- the micro-steps that write another register are those of a transaction or of the dispatcher
  case linkWrite | linkRead | releaseGet | releaseClr => intros; simp_all
  case testEmits | testSilent | done | ackTaken => intros; simp_all
  all_goals intros; rfl

/-- After a response DISPATCH is in progress again at every place but Idle (10_state.md R33). -/
theorem Resume.op_eq_of_seq (r : Resume) (x : OpSel) :
    r.op x = if r.seq.inOperation = true ∨ r.seq = .idle then x else .dispatch := by
  cases r <;> rfl

/-- A micro-step of INIT or DEINIT keeps H.op, but for a response that leads back into a DISPATCH. -/
theorem advance_op_of_lifecycle (hop : s.seq.inOperation = true) (hin : s.seq.inTxn = false) :
    (advance s).op = if (advance s).seq.inOperation = true ∨ (advance s).seq = .idle then s.op else .dispatch := by
  revert hop hin
  apply advance_elim (P := fun s t => s.seq.inOperation = true → s.seq.inTxn = false →
    t.op = if t.seq.inOperation = true ∨ t.seq = .idle then s.op else .dispatch) s
  case initRespond | deinitRespond => exact fun _ _ _ _ => Resume.op_eq_of_seq _ _
  case waitExpired =>
    intro k f hq hf _ hop _
    rw [if_pos (.inl (by rwa [inOperation_after _ (WaitPoint.ne_ack hf), ← hq]))]
  case waitHolds =>
    intro k hq hk _ _ hop _
    rw [if_pos (.inl (by rwa [inOperation_after _ hk, ← hq]))]
  all_goals intros; simp_all

/-- A place with an INIT job is one of INIT's. -/
theorem Seq.lifecycle_of_initJob {q : Seq} {j : InitJob} (h : q.initJob = some j) :
    q.inOperation = true ∧ q.inTxn = false := by
  cases q with
  | idle => cases h
  | op k => cases k with
    | init j p => exact ⟨rfl, rfl⟩
    | txn o p => cases h
    | deinit b p => cases h
    | disp p => cases h
  | wait k => cases k with
    | initReset j => exact ⟨rfl, rfl⟩
    | txn o w => cases h
    | deinitReset b => cases h
    | ack => cases h

/-- Each of DEINIT's places is in an operation that is neither a transaction nor an INIT. -/
theorem Seq.lifecycle_of_deinit {q : Seq} (h : ∃ b, q = .wait (.deinitReset b) ∨ ∃ p, q = .op (.deinit b p)) :
    (q.inOperation = true ∧ q.inTxn = false) ∧ q.initJob = none := by
  obtain ⟨b, rfl | ⟨p, rfl⟩⟩ := h <;> exact ⟨⟨rfl, rfl⟩, rfl⟩

/-- Settles O35: the step is a micro-step of an operation that is no transaction, which writes the registers that
`advance_eq_update_of_lifecycle` names; the four that DEINIT keeps have their writers elsewhere. -/
theorem lifecycleStepsKeepTheRest : Obligations.LifecycleStepsKeepTheRest := by
  intro s t hport h initRuns deinitRuns
  rw [step_of_empty_port hport] at h
  cases h
  refine ⟨fun hruns => ?_, fun hdeinit => ?_⟩
  · obtain ⟨hop, hin⟩ := hruns.elim (fun ⟨_, hj⟩ => Seq.lifecycle_of_initJob hj) fun hd => (Seq.lifecycle_of_deinit hd).1
    have e := advance_eq_update_of_lifecycle hop hin
    exact ⟨(congrArg State.txdr e :), (congrArg State.evt e :), (congrArg State.evtValid e :), (congrArg State.cmd e :),
      (congrArg State.addr e :), advance_op_of_lifecycle hop hin, (congrArg State.off e :), (congrArg State.cnt e :),
      (congrArg State.txBuf e :), (congrArg State.rxBuf e :), (congrArg State.dActive e :), (congrArg State.dStat e :),
      (congrArg State.dWord e :), (congrArg State.dCursor e :), (congrArg State.refused e :), (congrArg State.par e :),
      (congrArg State.port e :), (congrArg State.asking e :), (congrArg State.client e :), (congrArg State.dClient e :)⟩
  · obtain ⟨⟨-, hin⟩, hjob⟩ := Seq.lifecycle_of_deinit hdeinit
    have hnoInit {j} (hq : s.seq = .op (.init j .respond)) : False := by simp [hq] at hjob
    have hnoFrame {o} (hq : s.seq = .op (.txn o .frameSel)) : False := by simp [hq] at hin
    have hsleep := (advance_deepSleep s).resolve_right
      (not_or.2 ⟨fun ⟨_, hq, _⟩ => hnoFrame hq, fun ⟨_, hq, _⟩ => hnoInit hq⟩)
    obtain ⟨hbaud, hpresc⟩ := Prod.mk.inj ((advance_prescaler s).resolve_right fun ⟨_, hq, _⟩ => hnoInit hq)
    exact ⟨hsleep, hbaud, hpresc, (advance_busEnabled s).resolve_right fun ⟨_, hq⟩ => hnoInit hq⟩

end Sys2Proof.Machine
end

section
/-! SUPPORT. Whole runs of INIT and DEINIT (spec/43_lifecycle.md R181, R184, R185), whatever the environment draws: the reset
wait, and then the last state of each operation, written out. -/

namespace Sys2Proof.Machine

variable {s : State} {k : WaitPoint} {f : FaultKind} {c : BitVec 3}

/-! ## The bounded wait (40_bus_primitive.md R100, R104) -/

/-- `s` after its wait `k`, which has recorded the fault `f` if it timed out; the counter, the inputs to come and the record are
those of `v`. -/
def State.afterWait (k : WaitPoint) (f : FaultKind) (timedOut : Bool) (s v : State) : State :=
  { s with
    errorCode := if timedOut then f.code else s.errorCode
    callFailed := timedOut || s.callFailed
    seq := .op (k.after (if timedOut then s.par.initFailState == .ready else initConfigures s))
    count := v.count, env := v.env, drawn := v.drawn, trace := v.trace }

/-- A wait ends within its budget, and it has timed out exactly if no sample within the budget ends it. -/
theorem wait_completes (hport : s.port = []) (hq : s.seq = .wait k) (hf : k.faultKind = some f) :
    ∃ n timedOut v new, RunsTo n s (s.afterWait k f timedOut v) ∧ n ≤ s.count + 1 ∧ v.trace = new ++ s.trace ∧
      (timedOut = true ↔ ∀ m, m < s.count → k.holds (s.inputsAt m) = false) := by
  have hk := WaitPoint.ne_ack hf
  by_cases hno : ∀ m, m < s.count → k.holds (s.inputsAt m) = false
  · have hlast := advance_wait_expired (s := s.afterSamples s.count) hq hf (Nat.sub_self s.count)
    exact ⟨s.count + 1, true, s.afterSamples s.count, s.samples s.count,
      runsTo_trans (runsTo_afterSamples hq hk hport le_rfl hno) (runsTo_advance hport (hlast ▸ runsTo_zero _)),
      le_rfl, rfl, iff_of_true rfl hno⟩
  · have hyes : ∃ m, m < s.count ∧ k.holds (s.inputsAt m) = true := by simpa using hno
    obtain ⟨hlt, hholds⟩ := Nat.find_spec hyes
    have hbefore (m : Nat) (hm : m < Nat.find hyes) : k.holds (s.inputsAt m) = false := by
      simpa [hm.trans hlt] using Nat.find_min hyes hm
    have hlast := advance_wait_holds (s := s.afterSamples (Nat.find hyes)) hq hk (Nat.sub_ne_zero_of_lt hlt)
      (by rwa [inputs_afterSamples])
    refine ⟨Nat.find hyes + 1, false, advance (s.afterSamples (Nat.find hyes)), s.samples (Nat.find hyes + 1),
      runsTo_trans (runsTo_afterSamples hq hk hport hlt.le hbefore) (runsTo_advance hport ?_),
      Nat.succ_le_succ hlt.le, ?_, iff_of_false Bool.false_ne_true hno⟩
    · rw [hlast]
      exact runsTo_zero _
    · rw [hlast, inputs_afterSamples, samples_succ]
      rfl

/-! ## INIT (R181) -/

/-- Whether an INIT presented in `s` configures the bus, by whether its reset wait has failed. -/
def State.configures (failed : Bool) (s : State) : Bool := !failed || s.par.initFailState == .ready

/-- `s` at the reset wait of an INIT with the code `c` that was presented in it. -/
def State.initWaiting (c : BitVec 3) (s : State) : State :=
  { s.accepted .init (.init (s.jobFor c) .setRst) with
    rst := false, trace := .rst false :: s.trace, seq := .wait (.initReset (s.jobFor c)), count := s.par.resetBudget }

/-- `s` after the reset wait of an INIT with the code `c` that was presented in it; the counter, the inputs to come and the record
are those of `v`. -/
def State.initWaited (c : BitVec 3) (failed : Bool) (s v : State) : State :=
  { s with
    state := .busy, op := .init, client := s.asking, callFailed := failed
    errorCode := if failed then 1 else s.errorCode
    rst := if s.state = .uninitializedAfterReset then false else s.rst
    seq := .op ((WaitPoint.initReset (s.jobFor c)).after (s.configures failed))
    count := v.count, env := v.env, drawn := v.drawn, trace := v.trace }

/-- `s` after an INIT with the code `c` that was presented in it, whose reset wait led to `v`. -/
def State.initialized (c : BitVec 3) (failed : Bool) (s v : State) : State :=
  { initFinish (s.jobFor c) (s.initWaited c failed v) with
    sel := if s.configures failed then false else s.sel
    seq := s.seq.resume.seq, op := s.seq.resume.op .init
    trace := .respond s.asking (.result (classify failed) []) ::
      ((if s.configures failed then [.sel false] else []) ++ v.trace) }

theorem advance_init_setRst {j : InitJob} (hq : s.seq = .op (.init j .setRst)) :
    advance s =
      { s with
        rst := false, trace := .rst false :: s.trace, seq := .wait (.initReset j), count := s.par.resetBudget } :=
  advance_of_op hq

theorem advance_init_setSel {j : InitJob} (hq : s.seq = .op (.init j .setSel)) :
    advance s = { s with sel := false, trace := .sel false :: s.trace, seq := .op (.init j .respond) } :=
  advance_of_op hq

theorem advance_init_respond {j : InitJob} (hq : s.seq = .op (.init j .respond)) :
    advance s =
      { initFinish j s with
        seq := j.back.seq, op := j.back.op s.op
        trace := .respond s.client (.result (classify s.callFailed) []) :: s.trace } := by
  rw [advance_of_op hq, opStep, initStep, initFinish_eq]
  rfl

/-- An INIT that is accepted comes to the end of its reset wait, which it takes only after a reset. -/
theorem init_waits (c : BitVec 3) (hport : s.port = [])
    (hs : s.state = .uninitializedAfterReset ∨ s.state = .uninitializedAfterRFReady) :
    ∃ n failed v new, RunsTo n (s.accepted .init (.init (s.jobFor c) (initFirst s.state))) (s.initWaited c failed v) ∧
      n ≤ s.par.resetBudget + 2 ∧ v.trace = new ++ s.trace ∧
      (failed = true ↔ s.state = .uninitializedAfterReset ∧ ∀ m, m < s.par.resetBudget → (s.inputsAt m).rstst = true) := by
  obtain hs | hs := hs
  · obtain ⟨n, failed, v, new, hrun, hn, htrace, hfailed⟩ :=
      wait_completes (s := s.initWaiting c) (k := .initReset (s.jobFor c)) (f := .timeout) hport rfl rfl
    have hend : (s.initWaiting c).afterWait (.initReset (s.jobFor c)) .timeout failed v = s.initWaited c failed v := by
      cases failed <;> simp [State.initWaiting, State.afterWait, State.initWaited, State.accepted, State.configures,
        initConfigures, hs, FaultKind.code]
    have hsamples : failed = true ↔ ∀ m, m < s.par.resetBudget → (!(s.inputsAt m).rstst) = false := hfailed
    refine ⟨n + 1, failed, v, new ++ [.rst false], ?_, Nat.succ_le_succ hn, by simp [htrace, State.initWaiting], ?_⟩
    · rw [hs]
      refine runsTo_advance hport ?_
      rw [advance_init_setRst rfl, ← hend]
      exact hrun
    · simpa [hs] using hsamples
  · refine ⟨0, false, s, [], ?_, Nat.zero_le _, rfl, by simp [hs]⟩
    have hstart : s.accepted .init (.init (s.jobFor c) (initFirst s.state)) = s.initWaited c false s := by
      simp [State.accepted, State.initWaited, State.configures, initFirst, WaitPoint.after, hs]
    rw [hstart]
    exact runsTo_zero _

/-- After its reset wait an INIT configures the bus or not, and responds. -/
theorem init_responds (c : BitVec 3) (failed : Bool) (v : State) (hport : s.port = []) :
    ∃ n, RunsTo n (s.initWaited c failed v) (s.initialized c failed v) ∧ n ≤ 2 := by
  rw [State.initialized, initFinish_eq]
  cases hc : s.configures failed
  · refine ⟨1, runsTo_advance hport ?_, Nat.le_succ 1⟩
    rw [advance_init_respond (j := s.jobFor c) (by simp [State.initWaited, WaitPoint.after, hc]), initFinish_eq]
    exact runsTo_zero _
  · refine ⟨2, runsTo_advance hport ?_, le_rfl⟩
    rw [advance_init_setSel (j := s.jobFor c) (by simp [State.initWaited, WaitPoint.after, hc])]
    refine runsTo_advance hport ?_
    rw [advance_init_respond rfl, initFinish_eq]
    exact runsTo_zero _

/-- An INIT that is accepted runs to its response; its reset wait fails exactly if it is taken and no sample shows RSTST = 0. -/
theorem init_completes (c : BitVec 3) (hport : s.port = [])
    (hs : s.state = .uninitializedAfterReset ∨ s.state = .uninitializedAfterRFReady) :
    ∃ n failed v new, RunsTo n (s.accepted .init (.init (s.jobFor c) (initFirst s.state))) (s.initialized c failed v) ∧
      n ≤ s.par.resetBudget + 4 ∧
      (s.initialized c failed v).trace = .respond s.asking (.result (classify failed) []) :: new ++ s.trace ∧
      (failed = true ↔ s.state = .uninitializedAfterReset ∧ ∀ m, m < s.par.resetBudget → (s.inputsAt m).rstst = true) := by
  obtain ⟨n, failed, v, new, hwait, hn, htrace, hfailed⟩ := init_waits c hport hs
  obtain ⟨n', hrespond, hn'⟩ := init_responds c failed v hport
  exact ⟨n + n', failed, v, _, runsTo_trans hwait hrespond, by omega,
    by rw [State.initialized, htrace, ← List.append_assoc]; rfl, hfailed⟩

/-! ### The last state of an INIT, field by field -/

theorem seq_initialized (hq : s.seq.quiet = true) (failed : Bool) (v : State) : (s.initialized c failed v).seq = s.seq :=
  Seq.resume_seq (Seq.inOperation_of_quiet hq)

theorem port_initialized (failed : Bool) (v : State) : (s.initialized c failed v).port = s.port := by
  rw [State.initialized, initFinish_eq]
  rfl

theorem rst_initialized (failed : Bool) (v : State) :
    (s.initialized c failed v).rst = if s.state = .uninitializedAfterReset then false else s.rst := by
  rw [State.initialized, initFinish_eq]
  rfl

/-- A failed INIT leaves the code of its Timeout, whether it configures the bus or not (60_exceptions.md R201). -/
theorem errorCode_initialized (failed : Bool) (v : State) : (s.initialized c failed v).errorCode = if failed then 1 else 0 := by
  rw [State.initialized, initFinish_eq]
  cases failed
  · rfl
  · exact ite_self _

/-- The registers that configure the bus. -/
def State.busSetup (s : State) := (s.state, s.baudPrescaler, s.presc, s.busEnabled, s.deepSleep, s.lockHeld, s.sel)

theorem busSetup_initialized (failed : Bool) (v : State) :
    (s.initialized c failed v).busSetup =
      if s.configures failed then (.ready, c, c, true, true, false, false) else s.busSetup := by
  rw [State.busSetup, State.initialized, initFinish_eq]
  have hconf : initConfigures (s.initWaited c failed v) = s.configures failed := rfl
  cases h : s.configures failed <;> simp only [hconf, h] <;> rfl

/-- Settles O36: `init_completes`, with the registers of the last state read off. -/
theorem initRunsToItsResponse : Obligations.InitRunsToItsResponse := by
  intro c s hq hs hport failed configured
  obtain ⟨n, b, v, new, hrun, hn, htrace, hfailed⟩ := init_completes c hport hs
  have hsetup := busSetup_initialized (c := c) (s := s) b v
  have hconf : s.configures b = true ↔ configured := by
    simp [State.configures, configured, failed, ← hfailed]
  refine ⟨_, n, _, _, exec_init_of_quiet hq hs, rfl, hrun, hn, htrace, seq_initialized hq b v, fun h => ?_, fun h => ?_,
    fun h => ?_, fun h => ?_, rst_initialized b v⟩
  · rw [errorCode_initialized, hfailed.2 h]
    exact ⟨rfl, rfl⟩
  · rw [errorCode_initialized, Bool.eq_false_iff.2 (mt hfailed.1 h)]
    exact ⟨rfl, rfl⟩
  · rw [if_pos (hconf.2 h)] at hsetup
    simpa [State.busSetup] using hsetup
  · rw [if_neg (mt hconf.1 h)] at hsetup
    simpa [State.busSetup] using hsetup

/-! ## DEINIT (R184) -/

/-- `s` at the reset wait of a DEINIT that was presented in it. -/
def State.deinitWaiting (s : State) : State :=
  { s.accepted .deinit (.deinit s.seq.resume .setRst) with
    busEnabled := false, rst := true, trace := .rst true :: s.trace
    seq := .wait (.deinitReset s.seq.resume), count := s.par.resetBudget }

/-- `s` after a DEINIT that was presented in it, whose reset wait led to `v`. -/
def State.deinitialized (failed : Bool) (s v : State) : State :=
  { s with
    state := .uninitializedAfterReset, errorCode := 0, lockHeld := false, busEnabled := false, rst := true, sel := false
    seq := s.seq.resume.seq, op := s.seq.resume.op .deinit, client := s.asking, callFailed := failed
    count := v.count, env := v.env, drawn := v.drawn
    trace := .respond s.asking (.result (classify failed) []) :: .sel false :: v.trace }

theorem advance_deinit_setRst {b : Resume} (hq : s.seq = .op (.deinit b .setRst)) :
    advance s =
      { s with
        rst := true, trace := .rst true :: s.trace, seq := .wait (.deinitReset b), count := s.par.resetBudget } :=
  advance_of_op hq

theorem advance_deinit_setSel {b : Resume} (hq : s.seq = .op (.deinit b .setSel)) :
    advance s = { s with sel := false, trace := .sel false :: s.trace, seq := .op (.deinit b .respond) } :=
  advance_of_op hq

theorem advance_deinit_respond {b : Resume} (hq : s.seq = .op (.deinit b .respond)) :
    advance s =
      { s with
        errorCode := 0, lockHeld := false, state := .uninitializedAfterReset, seq := b.seq, op := b.op s.op
        trace := .respond s.client (.result (classify s.callFailed) []) :: s.trace } :=
  advance_of_op hq

/-- A DEINIT that is accepted runs to its response; its reset wait fails exactly if no sample shows RSTST = 1. -/
theorem deinit_completes (hport : s.port = []) :
    ∃ n failed v new,
      RunsTo n { s.accepted .deinit (.deinit s.seq.resume .setRst) with busEnabled := false } (s.deinitialized failed v) ∧
      n ≤ s.par.resetBudget + 4 ∧
      (s.deinitialized failed v).trace = .respond s.asking (.result (classify failed) []) :: new ++ s.trace ∧
      (failed = true ↔ ∀ m, m < s.par.resetBudget → (s.inputsAt m).rstst = false) := by
  obtain ⟨n, failed, v, new, hwait, hn, htrace, hfailed⟩ :=
    wait_completes (s := s.deinitWaiting) (k := .deinitReset s.seq.resume) (f := .timeout) hport rfl rfl
  have hrespond : RunsTo 2 (s.deinitWaiting.afterWait (.deinitReset s.seq.resume) .timeout failed v)
      (s.deinitialized failed v) := by
    refine runsTo_advance hport ?_
    rw [advance_deinit_setSel rfl]
    refine runsTo_advance hport ?_
    rw [advance_deinit_respond rfl]
    cases failed <;> exact runsTo_zero _
  refine ⟨n + 2 + 1, failed, v, .sel false :: new ++ [.rst true], runsTo_advance hport ?_, Nat.add_le_add_right hn 3, ?_,
    hfailed⟩
  · rw [advance_deinit_setRst rfl]
    exact runsTo_trans hwait hrespond
  · rw [State.deinitialized, htrace]
    simp [State.deinitWaiting]

/-- Settles O37: `deinit_completes`, with the registers of the last state read off. -/
theorem deinitRunsToItsResponse : Obligations.DeinitRunsToItsResponse := by
  intro s hq hport
  obtain ⟨n, failed, v, new, hrun, hn, htrace, hfailed⟩ := deinit_completes hport
  refine ⟨_, n, _, _, exec_deinit_of_quiet hq, rfl, hrun, hn, htrace, Seq.resume_seq (Seq.inOperation_of_quiet hq),
    rfl, rfl, rfl, rfl, rfl, rfl, rfl, rfl, rfl, fun h => ?_, fun h => ?_⟩
  · rw [hfailed.2 h]
    rfl
  · rw [Bool.eq_false_iff.2 (mt hfailed.1 h)]
    rfl

/-! ## DEINIT and then INIT (R185) -/

/-- Settles O38: a DEINIT leaves a quiet controller in UninitializedAfterReset, so the INIT is accepted; its reset wait succeeds,
so it configures the bus. -/
theorem deinitThenInitRestoresReady : Obligations.DeinitThenInitRestoresReady := by
  intro c s hq hport
  obtain ⟨n, failed, v, -, hrun, -, -, -⟩ := deinit_completes hport
  refine ⟨_, n, s.deinitialized failed v, exec_deinit_of_quiet hq, hrun, rfl, fun ⟨m, hm, hout⟩ => ?_⟩
  have hquiet : (s.deinitialized failed v).seq.quiet = true := by
    rw [State.deinitialized, Seq.resume_seq (Seq.inOperation_of_quiet hq)]
    exact hq
  obtain ⟨n', failed', v', -, hrun', -, -, hfailed⟩ := init_completes (s := s.deinitialized failed v) c hport (.inl rfl)
  obtain rfl : failed' = false :=
    Bool.eq_false_iff.2 fun h => Bool.false_ne_true (hout.symm.trans ((hfailed.1 h).2 m hm))
  refine ⟨_, n', _, exec_init_of_quiet hquiet (.inl rfl), hrun', rfl, rfl, rfl, ?_, ?_⟩
  · rwa [seq_initialized hquiet]
  · rwa [port_initialized]

end Sys2Proof.Machine
end

section
/-! SUPPORT. The result Busy (spec/60_exceptions.md R202): a transaction request that is not admitted. -/

namespace Sys2Proof.Machine

/-- Settles O16: every transaction request is an admission (`exec_transaction`), and the admission test fails exactly on a state
that is not Ready or holds the lock (`State.admits_false_iff`); the refused admission only responds. -/
theorem busyRequestsChangeNothing : Obligations.BusyRequestsChangeNothing := by
  refine ⟨rfl, fun s i hi hbusy => ?_⟩
  have hadmits : s.admits = false := State.admits_false_iff.2 hbusy
  rw [exec_transaction hi, admission_busy hadmits]
  rfl

end Sys2Proof.Machine
end

section
/-! SUPPORT. Creation, the host duties and the observable record (spec/70_reset_and_hazards.md R231, R232, R240, R250): what a
request presented to a Handle just created does, what decides whether a request with a host duty is accepted, and how the record
grows. -/

namespace Sys2Proof.Machine

variable {s : State} {i : Instr} {c : BitVec 3}

/-! ## The record (R250) -/

/-- A micro-step records at most one event: none where it only moves the sequencer or the registers. -/
theorem advance_trace (s : State) : (advance s).trace = s.trace ∨ ∃ e, (advance s).trace = e :: s.trace := by
  apply advance_elim (P := fun s t => t.trace = s.trace ∨ ∃ e, t.trace = e :: s.trace) s
  case idle | releaseGet | releaseClr | testSilent | waitExpired | ackWaits => intros; exact .inl rfl
  all_goals intros; exact .inr ⟨_, rfl⟩

/-- Settles O58: a request adds at most its response (`exec_trace`), a refused descriptor nothing, and a micro-step at most one
event (`advance_trace`). -/
theorem recordGrowsByAtMostOneEvent : Obligations.RecordGrowsByAtMostOneEvent := by
  intro s t h
  obtain ⟨r, rest, i, -, -, -, hx⟩ | ⟨r, rest, e, -, -, -, rfl⟩ | ⟨-, rfl⟩ := step_next_cases h
  · exact (exec_trace hx).imp_right fun ⟨_, htrace⟩ => ⟨_, htrace⟩
  · exact .inl rfl
  · rw [State.tick_trace]
    exact advance_trace s

/-! ## The host duties (R240 (a), (b)) -/

theorem exec_dispatch_of_broken_duty (h : ¬ (s.state = .ready ∧ s.lockHeld = false ∧ s.dActive = false)) :
    exec .dispatch s = .fault .dispatchDuty :=
  if_neg (mt dispatchAllowed_iff.1 h)

theorem exec_init_of_broken_duty (h : ¬ ((s.seq = .idle ∨ s.seq = .wait .ack) ∧
    (s.state = .uninitializedAfterReset ∨ s.state = .uninitializedAfterRFReady))) :
    exec (.init c) s = .fault .initDuty :=
  if_neg (mt initAllowed_iff.1 h)

theorem exec_deinit_of_broken_duty (h : ¬ (s.seq = .idle ∨ s.seq = .wait .ack)) : exec .deinit s = .fault .deinitDuty :=
  if_neg (mt Seq.quiet_iff.1 h)

/-- A duty that separates the states in which a request is accepted from those in which it stops decides both. -/
theorem duty_decides {duty : Prop} {f : Fault} (hkept : duty → ∃ t, exec i s = .next t)
    (hbroken : ¬ duty → exec i s = .fault f) :
    (exec i s = .fault f ↔ ¬ duty) ∧ ((∃ t, exec i s = .next t) ↔ duty) := by
  refine ⟨⟨fun hstop hduty => ?_, hbroken⟩, ⟨fun ⟨t, ht⟩ => by_contra fun hduty => ?_, hkept⟩⟩
  · obtain ⟨t, ht⟩ := hkept hduty
    cases ht.symm.trans hstop
  · cases ht.symm.trans (hbroken hduty)

/-- Settles O39: each of the three requests is accepted where its duty is kept and stops where it is broken. -/
theorem hostDutiesDecideAcceptance : Obligations.HostDutiesDecideAcceptance := by
  intro s c
  have hdispatch := duty_decides (fun ⟨hready, hlock, hinactive⟩ => ⟨_, exec_dispatch_of_ready hready hlock hinactive⟩)
    (exec_dispatch_of_broken_duty (s := s))
  have hinit := duty_decides (fun ⟨hseq, hstate⟩ => ⟨_, exec_init_of_quiet (Seq.quiet_iff.2 hseq) hstate⟩)
    (exec_init_of_broken_duty (s := s) (c := c))
  have hdeinit := duty_decides (fun hseq => ⟨_, exec_deinit_of_quiet (Seq.quiet_iff.2 hseq)⟩)
    (exec_deinit_of_broken_duty (s := s))
  exact ⟨hdispatch.1, hdispatch.2, hinit.1, hinit.2, hdeinit.1, hdeinit.2⟩

/-! ## Creation (R231, R232) -/

/-- Settles O11: RST is asserted exactly for a radio that starts under reset. -/
theorem resetLineAtCreation : Obligations.ResetLineAtCreation :=
  fun _ => ⟨decide_eq_true, fun h => decide_eq_false (h ▸ InitialLifecycle.noConfusion)⟩

theorem initialState_uninitialized (l : InitialLifecycle) :
    initialState l = .uninitializedAfterReset ∨ initialState l = .uninitializedAfterRFReady := by
  cases l
  · exact .inl rfl
  · exact .inr rfl

theorem initialState_ne_ready (l : InitialLifecycle) : initialState l ≠ .ready := by
  cases l <;> decide

theorem initialState_code (l : InitialLifecycle) :
    (initialState l).code.setWidth 32 = if l = .uninitializedAfterReset then 0 else 3 := by
  cases l <;> rfl

/-- Settles O13: a Handle just created is quiet and uninitialized, so INIT and DEINIT are accepted; it is not Ready, so a
transaction is answered Busy and DISPATCH breaks its duty. -/
theorem requestsBeforeTheFirstInit : Obligations.RequestsBeforeTheFirstInit := by
  rintro p i _ rfl
  have hready : (State.create p).state ≠ .ready := initialState_ne_ready p.initialLifecycle
  have hgetstate := exec_getstate_of_state (s := State.create p) (l := initialState p.initialLifecycle) rfl
  rw [initialState_code] at hgetstate
  exact ⟨fun hi => busyRequestsChangeNothing.2 _ i hi (.inl hready), hgetstate, rfl,
    exec_dispatch_of_broken_duty fun h => hready h.1,
    fun _ => ⟨_, exec_init_of_quiet rfl (initialState_uninitialized p.initialLifecycle)⟩, ⟨_, exec_deinit_of_quiet rfl⟩⟩

end Sys2Proof.Machine
end
